-- ==== Sys2Proof/Word.lean ====
section
/-! DEFINITION. The word types of the block: the byte the streams are made of and the 16-bit value that pixels,
coordinates and panel addresses are (R11, R33, R67). -/

namespace Sys2Proof

/-- `u8` of R11: a byte of the command stream, of the glyph table or of a transfer. -/
abbrev Byte := BitVec 8

/-- `u16` and `s16` of R11: a coordinate, a panel address, an RGB565 pixel or a signed column field. -/
abbrev Half := BitVec 16

end Sys2Proof
end

