-- ==== Sys2Proof/Config.lean ====
section
/-! DEFINITION. What is fixed while the block runs: the parameters R8 gives a value, the shape of the open
parameters of R9 (a `Config`, carried by the state and written by nothing) with the conditions R10 and R59 put on
them, and the free values the spec leaves to the environment. -/

namespace Sys2Proof

/-- The nineteen controller commands the block emits (R57). -/
inductive PanelCmd where
  | swreset | slpout
  | frmctr1 | frmctr2 | frmctr3
  | pwctr1 | pwctr2 | pwctr3 | pwctr4 | pwctr5
  | vmctr1 | colmod | madctl | gmctrp1 | gmctrn1 | dispon
  | caset | raset | ramwr
  deriving DecidableEq, Repr, Inhabited

/-- One entry `(cmd, payload, delay)` of `INIT_TABLE` (R58). -/
structure InitStep where
  cmd     : PanelCmd
  payload : List Byte
  delay   : Nat
  deriving DecidableEq, Repr, Inhabited

/-- The open parameter `WRAP` (R9, R41): what sets the write pointer past the last row of the window. -/
inductive WrapRule where
  /-- the default: back to the window's first row -/
  | toWindowStart
  /-- another rule, which the spec does not give: the pointer is then a free value (log entry 11) -/
  | unspecified
  deriving DecidableEq, Repr, Inhabited

/-- The open parameter `POLARITY` (R9, R18): for each line, whether the state named first is the high level. -/
structure Polarity where
  rstAssertedHigh : Bool
  dcDataHigh      : Bool
  csSelectedHigh  : Bool
  deriving DecidableEq, Repr, Inhabited

/-- The open parameters of R9, which a model takes as an argument. -/
structure Config where
  /-- `RAMP`, brightest first -/
  ramp        : List Half
  /-- `ALPHABET` -/
  alphabet    : List Byte
  /-- `GLYPH`: the contents of `GROM` by address (R37) -/
  glyph       : List Byte
  /-- `INIT_TABLE` -/
  initTable   : List InitStep
  /-- `MADCTL_VALUE` -/
  madctlValue : Byte
  /-- `TIME_UNIT`: the physical length of one delay unit, in a unit the spec does not name -/
  timeUnit    : Nat
  /-- `POLARITY` -/
  polarity    : Polarity
  /-- `TX_TIMEOUT`: the transport's maximum blocking time, in the same unit; no rule of the block reads it -/
  txTimeout   : Nat
  /-- `WRAP` -/
  wrap        : WrapRule
  /-- `GRAM_W` -/
  gramW       : Nat
  /-- `GRAM_H` -/
  gramH       : Nat
  deriving DecidableEq, Repr, Inhabited

namespace Config

/-! The parameters with the values of R8 and the decided values of R9. -/

@[simp] abbrev WIDTH : Nat := 128
@[simp] abbrev HEIGHT : Nat := 160
@[simp] abbrev OFFX : Nat := 2
@[simp] abbrev OFFY : Nat := 1
@[simp] abbrev GLYPH_W : Nat := 5
@[simp] abbrev GLYPH_H : Nat := 8
@[simp] abbrev CELL_W : Nat := 6
@[simp] abbrev CODE_MIN : Nat := 32
@[simp] abbrev CODE_MAX : Nat := 126
@[simp] abbrev TAIL_MIN : Nat := 4
@[simp] abbrev K : Nat := 10
@[simp] abbrev SPEED_MIN : Nat := 1
@[simp] abbrev SPEED_MAX : Nat := 3
@[simp] abbrev FC_INIT_MIN : Nat := 0
@[simp] abbrev FC_INIT_MAX : Nat := 9
@[simp] abbrev ROWS : Nat := 20
@[simp] abbrev NCOL_MAX : Nat := 21
@[simp] abbrev BG : Half := 0x0000

/-- The size of `GROM` in bytes (R26, R37). -/
@[simp] abbrev GROM_SIZE : Nat := 1280

/-- A valid character code (R9 `CODE_MAX`, R37). -/
def validCode (c : Byte) : Bool := decide (CODE_MIN ≤ c.toNat) && decide (c.toNat ≤ CODE_MAX)

/-- Every step that sends `a` comes before every step that sends `b` (R59: "precede", "follow"). -/
def precedes (a b : PanelCmd) : List InitStep → Bool
  | [] => true
  | st :: rest => (decide (st.cmd ≠ b) || rest.all (fun t => decide (t.cmd ≠ a))) && precedes a b rest

/-- The frame-rate, power and VCOM steps of R58. -/
def preColourCmds : List PanelCmd :=
  [.frmctr1, .frmctr2, .frmctr3, .pwctr1, .pwctr2, .pwctr3, .pwctr4, .pwctr5, .vmctr1]

/-- The sixteen commands R57 says `INIT` emits. -/
def initCmds : List PanelCmd :=
  [.swreset, .slpout] ++ preColourCmds ++ [.colmod, .madctl, .gmctrp1, .gmctrn1, .dispon]

/-- The properties (a) to (h) that R59 asks of any `INIT_TABLE` a model admits, with the payload of the
memory-access-order step at `MADCTL_VALUE` (R58) and every step of R58's list present (log entry 19). The software
reset is the first step and no later one, and the display-on step is the last and no earlier one. -/
def initTableLegal (madctl : Byte) (t : List InitStep) : Bool :=
  (match t with
   | st :: rest => decide (st.cmd = .swreset) && decide (150 ≤ st.delay) && rest.all (fun u => decide (u.cmd ≠ .swreset))
   | [] => false) &&
  t.all (fun st => decide (st.cmd ≠ .slpout) || decide (255 ≤ st.delay)) &&
  preColourCmds.all (fun c => precedes c .colmod t) &&
  t.all (fun st => decide (st.cmd ≠ .colmod) || decide (st.payload = [0x05#8])) &&
  t.all (fun st => decide (st.cmd ≠ .madctl) || decide (st.payload = [madctl])) &&
  precedes .colmod .madctl t &&
  precedes .madctl .gmctrp1 t && precedes .madctl .gmctrn1 t &&
  (match t.getLast? with
   | some st => decide (st.cmd = .dispon) && decide (100 ≤ st.delay)
   | none => false) &&
  t.dropLast.all (fun st => decide (st.cmd ≠ .dispon)) &&
  t.all (fun st => decide (st.cmd ∈ initCmds)) &&
  initCmds.all (fun c => t.any (fun st => decide (st.cmd = c)))

/-- R10 (with R37's size and R59): the configurations the spec admits. -/
def legal (c : Config) : Bool :=
  decide (c.ramp ≠ []) && decide (c.alphabet ≠ []) && c.alphabet.all validCode &&
  decide (c.glyph.length = GROM_SIZE) && initTableLegal c.madctlValue c.initTable

end Config

/-! ## What the environment and the controller choose -/

/-- The transport's reply to one transfer (R29): `OK`, or `FAIL` after the first `reached` bytes of the transfer
(at most all of them) have got to the controller, which the block does not learn. -/
inductive Reply where
  | ok
  | fail (reached : Nat)
  deriving DecidableEq, Repr, Inhabited

/-- The controller's mode (R39). -/
inductive PanelMode where
  | idle
  /-- a command byte with the parameter bytes it has got so far -/
  | param (b : Byte) (got : List Byte)
  /-- the memory write, with the first byte of a pixel if one is pending -/
  | memwrite (pending : Option Byte)
  deriving DecidableEq, Repr, Inhabited

/-- The controller's window, write pointer and mode (R39). -/
structure PanelRegs where
  wx0  : Half
  wx1  : Half
  wy0  : Half
  wy1  : Half
  px   : Half
  py   : Half
  mode : PanelMode
  deriving DecidableEq, Repr, Inhabited

namespace Config

/-- FREE VALUE: the transport's reply to transfer number `n`, where the environment's list ends (R29; log entry 5). -/
opaque freeReply : Nat → Reply

/-- FREE VALUE: what the random source offers to draw number `n`, where the environment's list ends; a draw maps it
into the asked list (R104; log entry 6). -/
opaque freeDraw : Nat → Nat

/-- FREE VALUE: the controller's window, pointer and mode where the spec leaves them unspecified (R39, R109, R114;
log entry 7). -/
opaque freePanel : Nat → PanelRegs

/-- FREE VALUE: the write pointer past the window's end under a `WRAP` the spec does not give (R41; log entry 11). -/
opaque freePointer : Nat → Half × Half

end Config

end Sys2Proof
end

