-- ==== Sys2Proof/Syntax.lean ====
section
/-! DEFINITION. The instructions: one constructor for each mnemonic of spec/opcode_table.json (the nine host commands
of R53, the reserved opcodes of R54, the two pseudo-instructions of R56 and the nineteen controller commands of R57). -/

namespace Sys2Proof

inductive Instr where
  /-- `INIT` (R61) -/
  | init
  /-- `SETWIN x0, y0, x1, y1` (R68) -/
  | setwin (x0 y0 x1 y1 : Half)
  /-- `WRPIX color` (R69) -/
  | wrpix (color : Half)
  /-- `FILL color` (R70) -/
  | fill (color : Half)
  /-- `DRAWPIX x, y, color` (R72) -/
  | drawpix (x y color : Half)
  /-- `DRAWCHAR x, y, code, fg, bg` (R74) -/
  | drawchar (x y : Half) (code : Byte) (fg bg : Half)
  /-- `DRAWSTR x, y, fg, bg, "text"` (R75) -/
  | drawstr (x y fg bg : Half) (text : List Byte)
  /-- `COLINIT n` (R79) -/
  | colinit (n : Byte)
  /-- `TICK` (R80) -/
  | tick
  /-- a reserved opcode byte, 0x00 or 0x0A to 0xFF (R54, R93) -/
  | reserved (op : Byte)
  /-- `CLEAR color`, another name of `FILL` (R56) -/
  | clear (color : Half)
  /-- `FILLSCREEN color`, another name of `FILL` (R56) -/
  | fillscreen (color : Half)
  /-- Controller commands with the payload and wait of their `INIT_TABLE` entry (R57, R58). -/
  | swreset | slpout
  | frmctr1 | frmctr2 | frmctr3
  | pwctr1 | pwctr2 | pwctr3 | pwctr4 | pwctr5
  | vmctr1 | colmod | madctl | gmctrp1 | gmctrn1 | dispon
  /-- `CASET` with its four-byte payload: the first and last panel column, offset applied (R57, R64) -/
  | caset (first last : Half)
  /-- `RASET` with its four-byte payload: the first and last panel row, offset applied (R57, R64) -/
  | raset (first last : Half)
  /-- `RAMWR`, which takes no payload (R57, R64) -/
  | ramwr
  deriving DecidableEq, Repr

end Sys2Proof
end

