-- ==== Sys2Proof/Machine/Operands.lean ====
section
/-! DEFINITION. Byte order, field assembly and the command bytes: the helpers the decoder, the encoder and the
procedures share (R33, R34, R50, R51, R57). -/

namespace Sys2Proof.Machine

/-- `v[15:8]` (R33). -/
def hiByte (v : Half) : Byte := v.extractLsb' 8 8

/-- `v[7:0]` (R33). -/
def loByte (v : Half) : Byte := v.extractLsb' 0 8

/-- `{hi, lo}`: a 16-bit value from two bytes, most significant first (R11, R51). -/
def half (hi lo : Byte) : Half := hi ++ lo

/-- R33: the two bytes of a 16-bit value in transfer order. -/
def bytesOf (v : Half) : List Byte := [hiByte v, loByte v]

/-- R57: the byte of each controller command. -/
def cmdByte : PanelCmd → Byte
  | .swreset => 0x01
  | .slpout  => 0x11
  | .frmctr1 => 0xB1
  | .frmctr2 => 0xB2
  | .frmctr3 => 0xB3
  | .pwctr1  => 0xC0
  | .pwctr2  => 0xC1
  | .pwctr3  => 0xC2
  | .pwctr4  => 0xC3
  | .pwctr5  => 0xC4
  | .vmctr1  => 0xC5
  | .colmod  => 0x3A
  | .madctl  => 0x36
  | .gmctrp1 => 0xE0
  | .gmctrn1 => 0xE1
  | .dispon  => 0x29
  | .caset   => 0x2A
  | .raset   => 0x2B
  | .ramwr   => 0x2C

/-! R53: the assigned opcodes. -/

def opInit : Byte := 0x01
def opSetwin : Byte := 0x02
def opWrpix : Byte := 0x03
def opFill : Byte := 0x04
def opDrawpix : Byte := 0x05
def opDrawchar : Byte := 0x06
def opDrawstr : Byte := 0x07
def opColinit : Byte := 0x08
def opTick : Byte := 0x09

/-- R12 `zext_16` of a byte. -/
def zext16 (b : Byte) : Half := b.setWidth 16

end Sys2Proof.Machine
end

