-- ==== Sys2Proof/WellFormed.lean ====
section
/-! DEFINITION. The checks an instruction passes beyond its field widths. -/

namespace Sys2Proof

/-- R53, R54: the opcode bytes that are not assigned, 0x00 and 0x0A to 0xFF. -/
def reservedOpcode (op : Byte) : Bool := decide (op.toNat = 0) || decide (0x0A ≤ op.toNat)

namespace Instr

/-- R50 and R51: the text of `DRAWSTR` is counted by one byte; R54: a reserved opcode is an unassigned byte. Every
other bit pattern of every operand field is accepted (R51, R54). -/
def wellFormed : Instr → Bool
  | .drawstr _ _ _ _ text => decide (text.length ≤ 255)
  | .reserved op => reservedOpcode op
  | .init | .setwin _ _ _ _ | .wrpix _ | .fill _ | .drawpix _ _ _ | .drawchar _ _ _ _ _ | .colinit _ | .tick
  | .clear _ | .fillscreen _
  | .swreset | .slpout | .frmctr1 | .frmctr2 | .frmctr3 | .pwctr1 | .pwctr2 | .pwctr3 | .pwctr4 | .pwctr5
  | .vmctr1 | .colmod | .madctl | .gmctrp1 | .gmctrn1 | .dispon | .caset _ _ | .raset _ _ | .ramwr => true

/-- The instructions of the host command stream: all but the controller commands, which the block emits and does
not decode (R57). -/
def isHostCommand : Instr → Bool
  | .init | .setwin _ _ _ _ | .wrpix _ | .fill _ | .drawpix _ _ _ | .drawchar _ _ _ _ _ | .drawstr _ _ _ _ _
  | .colinit _ | .tick | .reserved _ | .clear _ | .fillscreen _ => true
  | .swreset | .slpout | .frmctr1 | .frmctr2 | .frmctr3 | .pwctr1 | .pwctr2 | .pwctr3 | .pwctr4 | .pwctr5
  | .vmctr1 | .colmod | .madctl | .gmctrp1 | .gmctrn1 | .dispon | .caset _ _ | .raset _ _ | .ramwr => false

/-- R56: what a pseudo-instruction expands to; every other instruction is itself. -/
def expand : Instr → Instr
  | .clear color => .fill color
  | .fillscreen color => .fill color
  | i => i

end Instr

end Sys2Proof
end

