-- ==== Sys2Proof/Decode.lean ====
section
/-! DEFINITION. Decoding a host command from the bytes at `CP` (R48, R50 to R54), and the encoder written from the
same formats. The decoder is total: it answers an instruction with the bytes after it, or says by name why the
supplied bytes hold no whole command. -/

namespace Sys2Proof

open Sys2Proof.Machine

/-- Why the bytes at `CP` give no command (R48): in both cases the block waits for the host. -/
inductive DecodeError where
  /-- not even the opcode byte is supplied -/
  | noOpcode
  /-- the opcode is supplied and the command's other bytes are not all there -/
  | incomplete (op : Byte)
  deriving DecidableEq, Repr

/-- The decoder's answer: the instruction and the bytes after it. -/
abbrev DecodeResult := Except DecodeError (Instr × List Byte)

/-- Formats `FN`, `FC`, `FP`, `FW`, `FG` and `FS` (R50): the operand bytes of each opcode, in stream order. -/
def decodeFN (mk : Byte → Instr) (op : Byte) : List Byte → DecodeResult
  | n :: rest => .ok (mk n, rest)
  | _ => .error (.incomplete op)

def decodeFC (mk : Half → Instr) (op : Byte) : List Byte → DecodeResult
  | ch :: cl :: rest => .ok (mk (half ch cl), rest)
  | _ => .error (.incomplete op)

def decodeFP (mk : Half → Half → Half → Instr) (op : Byte) : List Byte → DecodeResult
  | xh :: xl :: yh :: yl :: ch :: cl :: rest => .ok (mk (half xh xl) (half yh yl) (half ch cl), rest)
  | _ => .error (.incomplete op)

def decodeFW (mk : Half → Half → Half → Half → Instr) (op : Byte) : List Byte → DecodeResult
  | ah :: al :: bh :: bl :: ch :: cl :: dh :: dl :: rest =>
    .ok (mk (half ah al) (half bh bl) (half ch cl) (half dh dl), rest)
  | _ => .error (.incomplete op)

def decodeFG (mk : Half → Half → Byte → Half → Half → Instr) (op : Byte) : List Byte → DecodeResult
  | xh :: xl :: yh :: yl :: code :: fh :: fl :: bh :: bl :: rest =>
    .ok (mk (half xh xl) (half yh yl) code (half fh fl) (half bh bl), rest)
  | _ => .error (.incomplete op)

/-- `FS`: byte 9 counts the text bytes, so the length is known only after it (R52). -/
def decodeFS (mk : Half → Half → Half → Half → List Byte → Instr) (op : Byte) : List Byte → DecodeResult
  | xh :: xl :: yh :: yl :: fh :: fl :: bh :: bl :: len :: rest =>
    if len.toNat ≤ rest.length then
      .ok (mk (half xh xl) (half yh yl) (half fh fl) (half bh bl) (rest.take len.toNat), rest.drop len.toNat)
    else .error (.incomplete op)
  | _ => .error (.incomplete op)

/-- R48: the opcode is looked at first, and an unassigned one is known as such before any further byte is needed;
then R50 and R53 give the operands. -/
def decode : List Byte → DecodeResult
  | [] => .error .noOpcode
  | op :: rest =>
    if op = opInit then .ok (.init, rest)
    else if op = opSetwin then decodeFW .setwin op rest
    else if op = opWrpix then decodeFC .wrpix op rest
    else if op = opFill then decodeFC .fill op rest
    else if op = opDrawpix then decodeFP .drawpix op rest
    else if op = opDrawchar then decodeFG .drawchar op rest
    else if op = opDrawstr then decodeFS .drawstr op rest
    else if op = opColinit then decodeFN .colinit op rest
    else if op = opTick then .ok (.tick, rest)
    else .ok (.reserved op, rest)

/-! ## The encoder -/

/-- The bytes of an instruction: for a host command its format of R50, for a pseudo-instruction those of its
expansion (R56), for a controller command the bytes its row of the opcode table gives it on the panel interface
(R57, R64; the payloads of the `INIT_TABLE` commands are configuration and not part of the word). -/
def encode : Instr → List Byte
  | .init => [opInit]
  | .setwin x0 y0 x1 y1 => opSetwin :: (bytesOf x0 ++ bytesOf y0 ++ bytesOf x1 ++ bytesOf y1)
  | .wrpix color => opWrpix :: bytesOf color
  | .fill color => opFill :: bytesOf color
  | .drawpix x y color => opDrawpix :: (bytesOf x ++ bytesOf y ++ bytesOf color)
  | .drawchar x y code fg bg => opDrawchar :: (bytesOf x ++ bytesOf y ++ code :: (bytesOf fg ++ bytesOf bg))
  | .drawstr x y fg bg text =>
    opDrawstr :: (bytesOf x ++ bytesOf y ++ bytesOf fg ++ bytesOf bg ++ BitVec.ofNat 8 text.length :: text)
  | .colinit n => [opColinit, n]
  | .tick => [opTick]
  | .reserved op => [op]
  | .clear color => opFill :: bytesOf color
  | .fillscreen color => opFill :: bytesOf color
  | .swreset => [cmdByte .swreset]
  | .slpout => [cmdByte .slpout]
  | .frmctr1 => [cmdByte .frmctr1]
  | .frmctr2 => [cmdByte .frmctr2]
  | .frmctr3 => [cmdByte .frmctr3]
  | .pwctr1 => [cmdByte .pwctr1]
  | .pwctr2 => [cmdByte .pwctr2]
  | .pwctr3 => [cmdByte .pwctr3]
  | .pwctr4 => [cmdByte .pwctr4]
  | .pwctr5 => [cmdByte .pwctr5]
  | .vmctr1 => [cmdByte .vmctr1]
  | .colmod => [cmdByte .colmod]
  | .madctl => [cmdByte .madctl]
  | .gmctrp1 => [cmdByte .gmctrp1]
  | .gmctrn1 => [cmdByte .gmctrn1]
  | .dispon => [cmdByte .dispon]
  | .caset first last => cmdByte .caset :: (bytesOf first ++ bytesOf last)
  | .raset first last => cmdByte .raset :: (bytesOf first ++ bytesOf last)
  | .ramwr => [cmdByte .ramwr]

/-- R52: the number of bytes of an instruction's word, which is what a host command advances `CP` by. A reserved
opcode has no length (R93) and its word is the one byte that shows it; a controller command's is its bytes on the
panel interface. -/
def instrLength : Instr → Nat
  | .init => 1
  | .setwin _ _ _ _ => 9
  | .wrpix _ => 3
  | .fill _ => 3
  | .drawpix _ _ _ => 7
  | .drawchar _ _ _ _ _ => 10
  | .drawstr _ _ _ _ text => 10 + text.length
  | .colinit _ => 2
  | .tick => 1
  | .reserved _ => 1
  | .clear _ => 3
  | .fillscreen _ => 3
  | .swreset | .slpout | .frmctr1 | .frmctr2 | .frmctr3 | .pwctr1 | .pwctr2 | .pwctr3 | .pwctr4 | .pwctr5
  | .vmctr1 | .colmod | .madctl | .gmctrp1 | .gmctrn1 | .dispon | .ramwr => 1
  | .caset _ _ => 5
  | .raset _ _ => 5

/-! ## The host's words -/

/-- The longest host command: `DRAWSTR` with 255 text bytes (R52). -/
def longestCommand : Nat := 265

/-- The `n` low bytes of `w`, the least significant first: byte 0 is the first of the stream. -/
def bytesFromNat : Nat → Nat → List Byte
  | 0, _ => []
  | n + 1, w => BitVec.ofNat 8 w :: bytesFromNat n (w / 256)

/-- An instruction word as the opcode table numbers its bits, laid out as stream bytes, with zero bytes above it. -/
def tableBytes (nbits w : Nat) : List Byte :=
  bytesFromNat (nbits / 8) w ++ List.replicate (longestCommand - nbits / 8) 0#8

/-- The instruction the decoder reads from a word of the opcode table. -/
def decodeTableWord (nbits w : Nat) : Option Instr :=
  match decode (tableBytes nbits w) with
  | .ok (i, _) => some i
  | .error _ => none

end Sys2Proof
end

