-- ==== Sys2Proof/Machine/Defaults.lean ====
section
/-! DEFINITION. The configuration the block has after reset: the spec's defaults (R9, R58), and for the open
parameters without one the values of the spec's own test configuration (95_test_vectors.md; log entry 1). -/

namespace Sys2Proof.Machine

/-- R58: the default `INIT_TABLE`, step 13 at `MADCTL_VALUE`. -/
def defaultInitTable (madctl : Byte) : List InitStep :=
  [⟨.swreset, [], 150⟩,
   ⟨.slpout, [], 255⟩,
   ⟨.frmctr1, [0x01, 0x2C, 0x2D], 0⟩,
   ⟨.frmctr2, [0x01, 0x2C, 0x2D], 0⟩,
   ⟨.frmctr3, [0x01, 0x2C, 0x2D, 0x01, 0x2C, 0x2D], 0⟩,
   ⟨.pwctr1, [0xA2, 0x02, 0x84], 0⟩,
   ⟨.pwctr2, [0xC5], 0⟩,
   ⟨.pwctr3, [0x0A, 0x00], 0⟩,
   ⟨.pwctr4, [0x8A, 0x2A], 0⟩,
   ⟨.pwctr5, [0x8A, 0xEE], 0⟩,
   ⟨.vmctr1, [0x0E], 0⟩,
   ⟨.colmod, [0x05], 0⟩,
   ⟨.madctl, [madctl], 0⟩] ++
  [⟨.gmctrp1, [0x02, 0x1C, 0x07, 0x12, 0x37, 0x32, 0x29, 0x2D, 0x29, 0x25, 0x2B, 0x39, 0x00, 0x01, 0x03, 0x10], 0⟩,
   ⟨.gmctrn1, [0x03, 0x1D, 0x07, 0x06, 0x2E, 0x2C, 0x29, 0x2D, 0x2E, 0x2E, 0x37, 0x3F, 0x00, 0x00, 0x02, 0x10], 0⟩,
   ⟨.dispon, [], 100⟩]

/-- 95_test_vectors.md: the glyphs of `A` to `D` (codes 0x41 to 0x44) and empty glyphs for every other code. -/
def testGlyphs : List Byte :=
  List.replicate 325 0 ++
  [0x7C, 0x12, 0x11, 0x12, 0x7C,
   0x7F, 0x49, 0x49, 0x49, 0x36,
   0x3E, 0x41, 0x41, 0x41, 0x22,
   0x7F, 0x41, 0x41, 0x22, 0x1C] ++
  List.replicate 935 0

/-- The configuration after reset (log entries 1 and 24): the defaults of R9, and the test configuration of
95_test_vectors.md for `RAMP`, `ALPHABET` and `GLYPH`. -/
def defaultConfig : Config where
  ramp        := [0xFFFF, 0x07E0, 0x0400, 0x0200]
  alphabet    := [0x41, 0x42, 0x43, 0x44]
  glyph       := testGlyphs
  initTable   := defaultInitTable 0xC8
  madctlValue := 0xC8
  timeUnit    := 1
  polarity    := { rstAssertedHigh := false, dcDataHigh := true, csSelectedHigh := false }
  txTimeout   := 1
  wrap        := .toWindowStart
  gramW       := 132
  gramH       := 162

end Sys2Proof.Machine
end

