-- ==== Sys2Proof/Machine/State.lean ====
section
/-! DEFINITION. The machine's state as plain data (10_state.md), the trace events (R28), the controller's reference
model (R39), the reasons a step can stop, and the state after block reset (R25). -/

namespace Sys2Proof.Machine

/-- `STATE` (R13). -/
inductive Lifecycle where
  | uninit | initializing | ready | failed
  deriving DecidableEq, Repr, Inhabited

/-- `RESULT` (R16); codes 5 to 7 are never written. -/
inductive ResultCode where
  | ok | errTransport | errState | errIllegal | errRange
  deriving DecidableEq, Repr, Inhabited

/-- The errors a command's rule can raise (R90 to R94). -/
inductive Error where
  | transportFail | stateError | illegalOpcode | rangeError
  deriving DecidableEq, Repr, Inhabited

/-- `LINES.RST` (R18). -/
inductive RstState where
  | released | asserted
  deriving DecidableEq, Repr, Inhabited

/-- `LINES.DC` (R18). -/
inductive DcState where
  | command | data
  deriving DecidableEq, Repr, Inhabited

/-- `LINES.CS` (R18). -/
inductive CsState where
  | deselected | selected
  deriving DecidableEq, Repr, Inhabited

/-- `LINES` (R18). -/
structure Lines where
  rst : RstState
  dc  : DcState
  cs  : CsState
  deriving DecidableEq, Repr, Inhabited

/-- The argument of `SetLine(l, v)` (R12): one line and its new state. -/
inductive LineWrite where
  | rst (v : RstState)
  | dc (v : DcState)
  | cs (v : CsState)
  deriving DecidableEq, Repr, Inhabited

/-- What the block learns of a transfer (R28, R29). -/
inductive Answer where
  | ok | fail
  deriving DecidableEq, Repr, Inhabited

/-- The events of the trace (R28). -/
inductive Event where
  /-- `Line(l, v)` -/
  | line (w : LineWrite)
  /-- `Tx(bs, a)` -/
  | tx (bs : List Byte) (a : Answer)
  /-- `Delay(n)` -/
  | delay (n : Nat)
  /-- `Draw(list, v)` -/
  | draw (choices : List Nat) (v : Nat)
  deriving DecidableEq, Repr, Inhabited

/-- A column register (R22): `head` and `fc` are s16, `tail` and `speed` u8. -/
structure Column where
  head  : Half
  tail  : Byte
  speed : Byte
  fc    : Half
  deriving DecidableEq, Repr, Inhabited

/-- The controller's reference model (R39). `gram` lists the pixels whose value the rules fix, by
`row * GRAM_W + col`, in strictly rising order; every other cell has no value (log entry 4). `free` counts the free
values drawn for the controller (log entry 7). -/
structure Panel where
  regs : PanelRegs
  gram : List (Nat × Half)
  free : Nat
  deriving DecidableEq, Repr, Inhabited

/-- What the environment answers (R7): the reply to transfer number `n` and the random source's offer to draw number
`n` are the `n`-th entries, and free values beyond the lists' ends (log entries 5 and 6). -/
structure Env where
  replies : List Reply
  draws   : List Nat
  deriving DecidableEq, Repr, Inhabited

/-- The whole machine. The first group is 10_state.md's; the second is what the block has given out and what has been
given to it; the third is the controller's reference model; the last is fixed while the block runs. -/
structure State where
  state     : Lifecycle
  result    : ResultCode
  stopped   : Bool
  lines     : Lines
  cp        : Nat
  ncols     : Byte
  cols      : Vector Column 21
  /-- the host command stream supplied so far (R26) -/
  stream    : List Byte
  /-- the trace, newest event first (R28; `State.trace` reads it in the spec's order) -/
  log       : List Event
  /-- transfers made so far: the index of the next reply (log entry 5) -/
  txCount   : Nat
  /-- draws made so far: the index of the next draw (log entry 6) -/
  drawCount : Nat
  panel     : Panel
  env       : Env
  cfg       : Config
  deriving DecidableEq, Repr

/-- The conditions under which the command cycle of R48 takes no step. Each is a stuck state of the block, left only
by the host, and is safe: the model claims nothing of what follows. -/
inductive Fault where
  /-- raised by `step` when `STOPPED = 1` (R17, R48); left by block reset only; safe -/
  | halted
  /-- raised by `step` when the byte at `CP` is not yet supplied (R48); left when the host supplies it; safe -/
  | noOpcode
  /-- raised by `step` when the command at `CP` is not wholly supplied (R48, D5); left when it is; safe -/
  | incompleteCommand
  deriving DecidableEq, Repr

/-- Reasons to give an instruction no meaning. -/
inductive Refusal where
  /-- raised by `exec` for an instruction of the opcode table that has no meaning yet, under its mnemonic; safe -/
  | notModelled (mnemonic : String)
  deriving DecidableEq, Repr

/-- A column field the spec leaves unspecified at reset (R25; log entry 2). -/
def Column.reset : Column := { head := 0, tail := 0, speed := 0, fc := 0 }

/-- R25: the lines at block reset. -/
def Lines.reset : Lines := { rst := .released, dc := .command, cs := .deselected }

/-- The controller at power-on, of which the spec gives no value (R109; log entry 3). -/
def Panel.reset : Panel where
  regs := { wx0 := 0, wx1 := 0, wy0 := 0, wy1 := 0, px := 0, py := 0, mode := .idle }
  gram := []
  free := 0

/-- The state right after reset (R25, R108): nothing supplied, nothing emitted. -/
def State.reset : State where
  state     := .uninit
  result    := .ok
  stopped   := false
  lines     := Lines.reset
  cp        := 0
  ncols     := 0
  cols      := Vector.replicate 21 Column.reset
  stream    := []
  log       := []
  txCount   := 0
  drawCount := 0
  panel     := Panel.reset
  env       := { replies := [], draws := [] }
  cfg       := defaultConfig

end Sys2Proof.Machine
end

