-- ==== Sys2Proof/Machine/Flags.lean ====
section
/-! DEFINITION. The status encodings the host reads: the codes of `STATE` and `RESULT`, the three status registers
(R13, R16, R24) and the physical line levels (R18). -/

namespace Sys2Proof.Machine

/-- R13: the 2-bit code of `STATE`. -/
def stateCode : Lifecycle → BitVec 2
  | .uninit => 0
  | .initializing => 1
  | .ready => 2
  | .failed => 3

/-- R16: the 3-bit code of `RESULT`. -/
def resultCode : ResultCode → BitVec 3
  | .ok => 0
  | .errTransport => 1
  | .errState => 2
  | .errIllegal => 3
  | .errRange => 4

/-- R18: 1 = `ASSERTED`. -/
def rstBit : RstState → BitVec 1
  | .released => 0
  | .asserted => 1

/-- R18: 1 = `DATA`. -/
def dcBit : DcState → BitVec 1
  | .command => 0
  | .data => 1

/-- R18: 1 = `SELECTED`. -/
def csBit : CsState → BitVec 1
  | .deselected => 0
  | .selected => 1

/-- R24 register 0x00: `[1:0] STATE`, `[2] STOPPED`, `[5:3] RESULT`, `[7:6]` read 0. -/
def statusByte (st : Lifecycle) (stopped : Bool) (res : ResultCode) : Byte :=
  (0 : BitVec 2) ++ resultCode res ++ BitVec.ofBool stopped ++ stateCode st

/-- R24 register 0x01: `[0] RST`, `[1] DC`, `[2] CS`, `[7:3]` read 0. -/
def linesByte (l : Lines) : Byte :=
  (0 : BitVec 5) ++ csBit l.cs ++ dcBit l.dc ++ rstBit l.rst

/-- R24: a host read of status register `n`; every other number reads 0, and a read has no side effect. -/
def State.readStatus (s : State) (n : Byte) : Byte :=
  if n = 0x00 then statusByte s.state s.stopped s.result
  else if n = 0x01 then linesByte s.lines
  else if n = 0x02 then s.ncols
  else 0x00

/-- R18 and `POLARITY` (R9): whether the pin of each line is high. -/
def rstHigh (pol : Polarity) : RstState → Bool
  | .asserted => pol.rstAssertedHigh
  | .released => !pol.rstAssertedHigh

def dcHigh (pol : Polarity) : DcState → Bool
  | .data => pol.dcDataHigh
  | .command => !pol.dcDataHigh

def csHigh (pol : Polarity) : CsState → Bool
  | .selected => pol.csSelectedHigh
  | .deselected => !pol.csSelectedHigh

/-- R12, R112 and `TIME_UNIT` (R9): the least time the waits of a trace take. -/
def minWait (cfg : Config) : List Event → Nat
  | [] => 0
  | .delay n :: rest => n * cfg.timeUnit + minWait cfg rest
  | .line _ :: rest => minWait cfg rest
  | .tx _ _ :: rest => minWait cfg rest
  | .draw _ _ :: rest => minWait cfg rest

end Sys2Proof.Machine
end

