-- ==== Sys2Proof/Machine/Panel.lean ====
section
/-! DEFINITION. The reference model of the display controller (20_memory.md section 5): its pixel memory and how it
interprets the block's events (R39 to R42). Everything the spec leaves unspecified of it is a free value, or a GRAM
cell without a value. -/

namespace Sys2Proof.Machine

/-! ## GRAM -/

namespace Gram

/-- What an unlisted cell reads as: no value. Nothing the rules say fixes it (R39, R109; log entry 4). -/
def unlisted : Option Half := none

/-- The canonical form: addresses strictly rising. An entry always has a value, which an unlisted cell has not. -/
def wf : List (Nat × Half) → Bool
  | [] => true
  | [_] => true
  | x :: y :: rest => decide (x.1 < y.1) && wf (y :: rest)

/-- The value the rules fix for the cell, if they do. -/
def read : List (Nat × Half) → Nat → Option Half
  | [], _ => unlisted
  | (b, v) :: rest, a => if a = b then some v else read rest a

/-- Writes one cell, keeping the canonical form. -/
def write : List (Nat × Half) → Nat → Half → List (Nat × Half)
  | [], a, v => [(a, v)]
  | (b, w) :: rest, a, v =>
    if a < b then (a, v) :: (b, w) :: rest
    else if a = b then (a, v) :: rest
    else (b, w) :: write rest a v

end Gram

/-- The address of `GRAM[col][row]`. -/
def gramAddr (cfg : Config) (col row : Nat) : Nat := row * cfg.gramW + col

namespace Panel

/-- A mode holds fewer than four parameter bytes (R40): a free mode is cut to that. -/
def clipMode : PanelMode → PanelMode
  | .param b got => .param b (got.take 3)
  | m => m

/-- R39: everything becomes unspecified, after a hardware or software reset, or where data has an effect the model
leaves open (R40, R114; log entries 7, 8 and 9). -/
def scramble (p : Panel) : Panel :=
  let r := Config.freePanel p.free
  { regs := { r with mode := clipMode r.mode }, gram := [], free := p.free + 1 }

/-- R65: the window the controller holds is one that `DoSetWindow` sends for operands that meet the precondition. -/
def windowLegal (r : PanelRegs) : Bool :=
  decide (Config.OFFX ≤ r.wx0.toNat) && decide (r.wx0.toNat ≤ r.wx1.toNat) &&
  decide (r.wx1.toNat < Config.WIDTH + Config.OFFX) &&
  decide (Config.OFFY ≤ r.wy0.toNat) && decide (r.wy0.toNat ≤ r.wy1.toNat) &&
  decide (r.wy1.toNat < Config.HEIGHT + Config.OFFY)

/-- R41: the pointer moves on in row-major order within the window; past its end `WRAP` sets it. -/
def advancePointer (cfg : Config) (p : Panel) : Panel :=
  let px := p.regs.px + 1
  if px.toNat ≤ p.regs.wx1.toNat then { p with regs := { p.regs with px := px } }
  else
    let py := p.regs.py + 1
    if py.toNat ≤ p.regs.wy1.toNat then { p with regs := { p.regs with px := p.regs.wx0, py := py } }
    else match cfg.wrap with
      | .toWindowStart => { p with regs := { p.regs with px := p.regs.wx0, py := p.regs.wy0 } }
      | .unspecified =>
        let q := Config.freePointer p.free
        { p with regs := { p.regs with px := q.1, py := q.2 }, free := p.free + 1 }

/-- R41: one pixel. Outside the memory, or through a window that breaks R65, any cell may change, so none has a value
afterwards (log entry 10). -/
def writePixel (cfg : Config) (p : Panel) (v : Half) : Panel :=
  let stored :=
    if p.regs.px.toNat < cfg.gramW ∧ p.regs.py.toNat < cfg.gramH ∧ windowLegal p.regs then
      Gram.write p.gram (gramAddr cfg p.regs.px.toNat p.regs.py.toNat) v
    else []
  advancePointer cfg { p with gram := stored }

/-- R40: a command byte starts its command. DEDUCED: a command other than `CASET`, `RASET`, `RAMWR` and `SWRESET` only
sets the mode; its "effects outside this model" leave window, pointer and memory as they are (log entry 29). -/
def startCommand (p : Panel) (b : Byte) : Panel :=
  if b = cmdByte .ramwr then
    { p with
      regs := { p.regs with px := p.regs.wx0, py := p.regs.wy0, mode := .memwrite none }
      gram := if windowLegal p.regs then p.gram else [] }
  else if b = cmdByte .swreset then scramble p
  else { p with regs := { p.regs with mode := .param b [] } }

/-- R40: the fourth parameter byte of `CASET` or `RASET` sets the window's columns or rows. -/
def setRange (p : Panel) (b d0 d1 d2 d3 : Byte) : Panel :=
  if b = cmdByte .caset then
    { p with regs := { p.regs with wx0 := half d0 d1, wx1 := half d2 d3, mode := .idle } }
  else
    { p with regs := { p.regs with wy0 := half d0 d1, wy1 := half d2 d3, mode := .idle } }

/-- R40: the data bytes of one transfer, in order. A byte in a mode whose data the model does not follow leaves
everything unspecified, whatever the bytes after it (log entry 9). -/
def receiveData (cfg : Config) : List Byte → Panel → Panel
  | [], p => p
  | d :: rest, p =>
    match p.regs.mode with
    | .memwrite none => receiveData cfg rest { p with regs := { p.regs with mode := .memwrite (some d) } }
    | .memwrite (some hi) =>
      receiveData cfg rest (writePixel cfg { p with regs := { p.regs with mode := .memwrite none } } (half hi d))
    | .param b got =>
      if b = cmdByte .caset ∨ b = cmdByte .raset then
        match got with
        | [d0, d1, d2] => receiveData cfg rest (setRange p b d0 d1 d2 d)
        | _ => receiveData cfg rest { p with regs := { p.regs with mode := .param b (got ++ [d]) } }
      else scramble p
    | .idle => scramble p

/-- R40: the bytes of one transfer as the controller sees them, under the data/command line. -/
def receive (cfg : Config) (dc : DcState) (bs : List Byte) (p : Panel) : Panel :=
  match dc with
  | .command => bs.foldl startCommand p
  | .data => receiveData cfg bs p

/-- R39, R40: of the line changes only the assertion of the reset line reaches the modelled state (log entry 8). -/
def onLine (w : LineWrite) (p : Panel) : Panel :=
  match w with
  | .rst .asserted => scramble p
  | _ => p

end Panel

/-- R42: the logical pixel `(x, y)`, if the rules fix its value. DESIGN CHOICE: off the panel, and where the open
`GRAM_W` or `GRAM_H` is too small to hold its cell, it has no value (log entry 30). -/
def State.logicalPixel (s : State) (x y : Nat) : Option Half :=
  if x < Config.WIDTH ∧ y < Config.HEIGHT ∧ x + Config.OFFX < s.cfg.gramW ∧ y + Config.OFFY < s.cfg.gramH then
    Gram.read s.panel.gram (gramAddr s.cfg (x + Config.OFFX) (y + Config.OFFY))
  else none

end Sys2Proof.Machine
end

