-- ==== Sys2Proof/Machine/Ops.lean ====
section
/-! DEFINITION. The operations every meaning is written with: the primitives of R12, the transfer plans the
procedures hand to the panel interface, raising an error and its action (R90 to R94), the command cycle's part of a
host command (R48), and what the host can do to the block (R24, R47, R108). -/

namespace Sys2Proof.Machine

/-! ## Events -/

namespace State

/-- The trace in the order of R28: the oldest event first. -/
def trace (s : State) : List Event := s.log.reverse

/-- R28: appends an event to the trace. -/
def emit (e : Event) (s : State) : State := { s with log := e :: s.log }

end State

/-- R12 `SetLine`: the new state of the three lines. -/
def Lines.set (w : LineWrite) (l : Lines) : Lines :=
  match w with
  | .rst v => { l with rst := v }
  | .dc v => { l with dc := v }
  | .cs v => { l with cs := v }

namespace State

/-- R12 `SetLine`, R18, R28: drives the line, with its event, whether or not its level changes (D13). -/
def setLine (w : LineWrite) (s : State) : State :=
  { s with lines := s.lines.set w, log := .line w :: s.log, panel := s.panel.onLine w }

/-- R29: the transport's reply to transfer number `n`: the environment's, or a free value (log entry 5). -/
def replyAt (s : State) (n : Nat) : Reply := s.env.replies.getD n (Config.freeReply n)

/-- R104: what the random source offers to draw number `n`: the environment's, or a free value (log entry 6). -/
def offerAt (s : State) (n : Nat) : Nat := s.env.draws.getD n (Config.freeDraw n)

/-- R29: a transfer the transport answers with `OK`: the controller gets every byte. -/
def txOk (bs : List Byte) (s : State) : State :=
  { s with
    log := .tx bs .ok :: s.log
    txCount := s.txCount + 1
    panel := s.panel.receive s.cfg s.lines.dc bs }

/-- R29: a transfer the transport answers with `FAIL`: the controller gets the bytes that went through (log entry 12). -/
def txFail (bs : List Byte) (reached : Nat) (s : State) : State :=
  { s with
    log := .tx bs .fail :: s.log
    txCount := s.txCount + 1
    panel := s.panel.receive s.cfg s.lines.dc (bs.take reached) }

end State

/-! ## Running a command's rule -/

/-- What a rule, or a part of one, comes to: it goes on, or it has raised an error and stopped there (R90). -/
inductive Run where
  | ok (s : State)
  | raised (e : Error) (s : State)
  deriving DecidableEq, Repr

namespace Run

/-- What follows in the rule, unless an error has ended it (R90). -/
def andThen (r : Run) (f : State → Run) : Run :=
  match r with
  | .ok s => f s
  | .raised e s => .raised e s

/-- The state a rule has reached. -/
def state : Run → State
  | .ok s => s
  | .raised _ s => s

end Run

/-- The rule `body` for each element, in order. -/
def forEach {α : Type} (body : α → State → Run) : List α → State → Run
  | [], s => .ok s
  | a :: rest, s => (body a s).andThen (forEach body rest)

/-! ## The panel interface -/

/-- A step of a procedure on the panel interface (R12, R28). -/
inductive Action where
  | setLine (w : LineWrite)
  | tx (bs : List Byte)
  | delay (n : Nat)
  deriving DecidableEq, Repr

/-- R30 `SendCmd`. -/
def sendCmd (c : PanelCmd) : List Action := [.setLine (.dc .command), .tx [cmdByte c]]

/-- R31 `SendData`. -/
def sendData (bs : List Byte) : List Action := [.setLine (.dc .data), .tx bs]

/-- Performs a plan on the panel interface: each event completes before the next begins (R44), and a transfer that
fails raises `TransportFail` with nothing after it done (R29, R90). -/
def perform : List Action → State → Run
  | [], s => .ok s
  | .setLine w :: rest, s => perform rest (s.setLine w)
  | .delay n :: rest, s => perform rest (s.emit (.delay n))
  | .tx bs :: rest, s =>
    match s.replyAt s.txCount with
    | .ok => perform rest (s.txOk bs)
    | .fail reached => .raised .transportFail (s.txFail bs reached)

/-- The trace of a plan whose transfers all succeed. -/
def planEvents : List Action → List Event
  | [] => []
  | .setLine w :: rest => .line w :: planEvents rest
  | .delay n :: rest => .delay n :: planEvents rest
  | .tx bs :: rest => .tx bs .ok :: planEvents rest

/-- The number of transfers of a plan (R32). -/
def planTransfers : List Action → Nat
  | [] => 0
  | .tx _ :: rest => planTransfers rest + 1
  | .setLine _ :: rest => planTransfers rest
  | .delay _ :: rest => planTransfers rest

/-! ## Random draws -/

/-- R12 `DrawChoice`, R104: the element drawn, given what the random source offers: the offer itself where it is in
the list, else the element it selects modulo the length (log entry 6). -/
def pick (choices : List Nat) (offer : Nat) : Nat :=
  if offer ∈ choices then offer else choices.getD (offer % choices.length) 0

/-- R12 `DrawRange(a, b)`: the list `[a, a+1, ..., b]`. -/
def rangeList (a b : Nat) : List Nat := (List.range (b + 1 - a)).map (a + ·)

namespace State

/-- The value the next draw from `choices` returns. -/
def nextDraw (choices : List Nat) (s : State) : Nat := pick choices (s.offerAt s.drawCount)

/-- R28: the `Draw` event of the next draw. -/
def afterDraw (choices : List Nat) (s : State) : State :=
  { s with log := .draw choices (s.nextDraw choices) :: s.log, drawCount := s.drawCount + 1 }

/-! ## Columns -/

/-- R12 `COL[i]`, read. -/
def col (s : State) (i : Fin 21) : Column := s.cols[i]

/-- R12 `COL[i] <- v`. -/
def setCol (i : Fin 21) (c : Column) (s : State) : State := { s with cols := s.cols.set i c }

end State

/-- The columns `0 .. n - 1`, in index order (R79, R80); there are no columns beyond index 20 (log entry 20). -/
def firstCols (n : Byte) : List (Fin 21) := (List.finRange 21).filter (fun i => decide (i.val < n.toNat))

/-! ## Errors -/

/-- The action of each error (R91 to R94): everything an error writes. There is no vector, saved state or handler
(R99), so this is the whole of taking one. -/
def errorAction (e : Error) (s : State) : State :=
  match e with
  | .transportFail => { s.setLine (.cs .deselected) with state := .failed, result := .errTransport }
  | .stateError => { s with result := .errState }
  | .illegalOpcode => { s with result := .errIllegal, stopped := true }
  | .rangeError => { s with result := .errRange }

/-- R90: the end of a rule, with the error's action if it raised one. -/
def settle : Run → State
  | .ok s => s
  | .raised e s => errorAction e s

/-- R92: the commands that need `READY` raise `StateError` before anything else when it does not hold. -/
def needReady (body : State → Run) (s : State) : Run :=
  if s.state = .ready then body s else .raised .stateError s

/-- R48: a host command from `RESULT <- OK` to `CP <- CP + Length(op)`. -/
def hostCommand (len : Nat) (body : State → Run) (s : State) : State :=
  let t := settle (body { s with result := .ok })
  { t with cp := t.cp + len }

/-! ## The host -/

namespace State

/-- R47: the host appends bytes to the command stream. -/
def supply (bs : List Byte) (s : State) : State := { s with stream := s.stream ++ bs }

/-- R100, R108: block reset, the only way out of `FAILED` and `STOPPED`. Every register takes its reset value, no event
is emitted, the controller keeps its state, and a new stream begins (log entry 23). -/
def blockReset (s : State) : State :=
  { State.reset with
    log := s.log, txCount := s.txCount, drawCount := s.drawCount, panel := s.panel, env := s.env, cfg := s.cfg }

end State

end Sys2Proof.Machine
end

