-- ==== Sys2Proof/Machine/Window.lean ====
section
/-! DEFINITION. The addressing window and the pixel stream: `SETWIN`, `WRPIX`, `FILL` and its two other names
(41_addressing.md; R56). -/

namespace Sys2Proof.Machine

/-- R43, R64: a logical column as a panel column, modulo 2^16. -/
def panelCol (x : Half) : Half := x + BitVec.ofNat 16 Config.OFFX

/-- R43, R64: a logical row as a panel row, modulo 2^16. -/
def panelRow (y : Half) : Half := y + BitVec.ofNat 16 Config.OFFY

/-- R64: the column-address command with its payload. -/
def casetPlan (first last : Half) : List Action := sendCmd .caset ++ sendData (bytesOf first ++ bytesOf last)

/-- R64: the row-address command with its payload. -/
def rasetPlan (first last : Half) : List Action := sendCmd .raset ++ sendData (bytesOf first ++ bytesOf last)

/-- R64 `DoSetWindow`; it checks nothing (R65). -/
def setWindowPlan (x0 y0 x1 y1 : Half) : List Action :=
  casetPlan (panelCol x0) (panelCol x1) ++ rasetPlan (panelRow y0) (panelRow y1) ++ sendCmd .ramwr

/-- R66 `DoWritePixel`. -/
def writePixelPlan (c : Half) : List Action := sendData (bytesOf c)

/-- The pixel `c`, `n` times. -/
def pixelRunPlan : Nat → Half → List Action
  | 0, _ => []
  | n + 1, c => writePixelPlan c ++ pixelRunPlan n c

/-- R70 `DoFill`: the whole panel's window, then `WIDTH * HEIGHT` pixels. -/
def fillPlan (c : Half) : List Action :=
  setWindowPlan 0 0 (BitVec.ofNat 16 (Config.WIDTH - 1)) (BitVec.ofNat 16 (Config.HEIGHT - 1)) ++
  pixelRunPlan (Config.WIDTH * Config.HEIGHT) c

/-- R68 `SETWIN`. -/
def execSetwin (x0 y0 x1 y1 : Half) (s : State) : Host.Outcome State Fault Refusal :=
  .next (hostCommand (instrLength (.setwin x0 y0 x1 y1)) (needReady (perform (setWindowPlan x0 y0 x1 y1))) s)

/-- R69 `WRPIX`. -/
def execWrpix (color : Half) (s : State) : Host.Outcome State Fault Refusal :=
  .next (hostCommand (instrLength (.wrpix color)) (needReady (perform (writePixelPlan color))) s)

/-- R70 `FILL`. -/
def execFill (color : Half) (s : State) : Host.Outcome State Fault Refusal :=
  .next (hostCommand (instrLength (.fill color)) (needReady (perform (fillPlan color))) s)

/-- R56 `CLEAR`: expands to `FILL` (log entry 15). -/
def execClear (color : Half) (s : State) : Host.Outcome State Fault Refusal :=
  .next (hostCommand (instrLength (.clear color)) (needReady (perform (fillPlan color))) s)

/-- R56 `FILLSCREEN`: expands to `FILL` (log entry 15). -/
def execFillscreen (color : Half) (s : State) : Host.Outcome State Fault Refusal :=
  .next (hostCommand (instrLength (.fillscreen color)) (needReady (perform (fillPlan color))) s)

end Sys2Proof.Machine
end

