-- ==== Sys2Proof/Machine/Painter.lean ====
section
/-! DEFINITION. The pixel painter, the glyph rasterizer and the string painter: `DRAWPIX`, `DRAWCHAR`, `DRAWSTR`
(42_painter.md). A silent no-op is the empty plan (R32, R95). -/

namespace Sys2Proof.Machine

/-- R71 `DoDrawPixel`: nothing outside the panel, else a 1x1 window and its pixel. -/
def drawPixelPlan (x y c : Half) : List Action :=
  if Config.WIDTH ≤ x.toNat ∨ Config.HEIGHT ≤ y.toNat then []
  else setWindowPlan x y x y ++ writePixelPlan c

/-- R12, R37 `MemRead(GROM, a, 1)`. -/
def grom (cfg : Config) (a : Nat) : Byte := cfg.glyph.getD a 0

/-- R37, R73: one glyph column at pixel column `x`: bit `r` of the glyph byte chooses the colour of row `r`. -/
def glyphColumnPlan (bits : Byte) (x y fg bg : Half) : List Action :=
  (List.range Config.GLYPH_H).flatMap fun r =>
    drawPixelPlan x (y + BitVec.ofNat 16 r) (if bits.getLsbD r then fg else bg)

/-- R73: the spacing column. -/
def spacingPlan (x y bg : Half) : List Action :=
  (List.range Config.GLYPH_H).flatMap fun r =>
    drawPixelPlan (x + BitVec.ofNat 16 Config.GLYPH_W) (y + BitVec.ofNat 16 r) bg

/-- R73: the character is one the glyph table has, and its cell is on the panel. -/
def charDrawn (x y : Half) (code : Byte) : Bool :=
  Config.validCode code &&
  decide (x.toNat ≤ Config.WIDTH - Config.CELL_W) && decide (y.toNat ≤ Config.HEIGHT - Config.GLYPH_H)

/-- R73 `DoDrawChar`: glyph columns left to right, each top to bottom, then the spacing column. -/
def drawCharPlan (cfg : Config) (x y : Half) (code : Byte) (fg bg : Half) : List Action :=
  if charDrawn x y code then
    ((List.range Config.GLYPH_W).flatMap fun k =>
      glyphColumnPlan (grom cfg (5 * code.toNat + k)) (x + BitVec.ofNat 16 k) y fg bg) ++
    spacingPlan x y bg
  else []

/-- R75 `DoDrawString` from pixel column `cx`: stops at the right margin, and an undrawn character still advances. -/
def drawStringPlan (cfg : Config) (y fg bg : Half) : Nat → List Byte → List Action
  | _, [] => []
  | cx, code :: rest =>
    if Config.WIDTH - Config.CELL_W < cx then []
    else drawCharPlan cfg (BitVec.ofNat 16 cx) y code fg bg ++ drawStringPlan cfg y fg bg (cx + Config.CELL_W) rest

/-- R72 `DRAWPIX`: the state check comes before the bounds (R96). -/
def execDrawpix (x y color : Half) (s : State) : Host.Outcome State Fault Refusal :=
  .next (hostCommand (instrLength (.drawpix x y color)) (needReady (perform (drawPixelPlan x y color))) s)

/-- R74 `DRAWCHAR`. -/
def execDrawchar (x y : Half) (code : Byte) (fg bg : Half) (s : State) : Host.Outcome State Fault Refusal :=
  .next (hostCommand (instrLength (.drawchar x y code fg bg))
    (needReady fun t => perform (drawCharPlan t.cfg x y code fg bg) t) s)

/-- R75 `DRAWSTR`. -/
def execDrawstr (x y fg bg : Half) (text : List Byte) (s : State) : Host.Outcome State Fault Refusal :=
  .next (hostCommand (instrLength (.drawstr x y fg bg text))
    (needReady fun t => perform (drawStringPlan t.cfg y fg bg x.toNat text) t) s)

end Sys2Proof.Machine
end

