-- ==== Sys2Proof/Machine/Animation.lean ====
section
/-! DEFINITION. The per-column animation state machine: `COLINIT` and `TICK` (43_animation.md). -/

namespace Sys2Proof.Machine

/-- R78 `RampColour(i)`: background from the ramp's length on. -/
def rampColour (cfg : Config) (i : Nat) : Half := cfg.ramp.getD i Config.BG

/-! R79, R82: the lists the column fields are drawn from. -/

def headChoices : List Nat := rangeList 0 (Config.ROWS - 1)
def tailChoices : List Nat := rangeList Config.TAIL_MIN (Config.TAIL_MIN + Config.K - 1)
def speedChoices : List Nat := rangeList Config.SPEED_MIN Config.SPEED_MAX
def fcChoices : List Nat := rangeList Config.FC_INIT_MIN Config.FC_INIT_MAX

/-- R81: the codes of `ALPHABET`, as the numbers a draw chooses among. -/
def alphabetChoices (cfg : Config) : List Nat := cfg.alphabet.map BitVec.toNat

/-! ## COLINIT -/

/-- R79: the four draws of one column, in the order head, tail, speed, fc. -/
def initColumn (i : Fin 21) (s : State) : Run :=
  let s1 := s.afterDraw headChoices
  let s2 := s1.afterDraw tailChoices
  let s3 := s2.afterDraw speedChoices
  let s4 := s3.afterDraw fcChoices
  .ok (s4.setCol i
    { head := BitVec.ofNat 16 (s.nextDraw headChoices)
      tail := BitVec.ofNat 8 (s1.nextDraw tailChoices)
      speed := BitVec.ofNat 8 (s2.nextDraw speedChoices)
      fc := BitVec.ofNat 16 (s3.nextDraw fcChoices) })

/-- R79 `DoInitColumns`, with its range check (R94). -/
def doColinit (n : Byte) (s : State) : Run :=
  if Config.NCOL_MAX < n.toNat then .raised .rangeError s
  else (forEach initColumn (firstCols n) s).andThen fun t => .ok { t with ncols := n }

/-- R79 `COLINIT`: accepted in every `STATE` (R92). -/
def execColinit (n : Byte) (s : State) : Host.Outcome State Fault Refusal :=
  .next (hostCommand (instrLength (.colinit n)) (doColinit n) s)

/-! ## TICK -/

/-- R81: `0 <= row` and `row < ROWS`, signed. -/
def rowVisible (row : Half) : Bool := decide (0 ≤ row.toInt) && decide (row.toInt < Config.ROWS)

/-- R77: the pixel column of animation column `c`. -/
def cellX (c : Fin 21) : Half := BitVec.ofNat 16 (Config.CELL_W * c.val)

/-- R77: the pixel row of grid row `row`. -/
def cellY (row : Half) : Half := BitVec.ofNat 16 (Config.GLYPH_H * row.toNat)

/-- R81: the cell at distance `i` from the head: a fresh character in the ramp's colour, or nothing at all where its
row is off the grid. -/
def paintCell (c : Fin 21) (i : Nat) (s : State) : Run :=
  let row := (s.col c).head - BitVec.ofNat 16 i
  if rowVisible row then
    let code := BitVec.ofNat 8 (s.nextDraw (alphabetChoices s.cfg))
    perform (drawCharPlan s.cfg (cellX c) (cellY row) code (rampColour s.cfg i) Config.BG)
      (s.afterDraw (alphabetChoices s.cfg))
  else .ok s

/-- R81: the distances `i` down to 0. -/
def paintTail (c : Fin 21) : Nat → State → Run
  | 0, s => paintCell c 0 s
  | i + 1, s => (paintCell c (i + 1) s).andThen (paintTail c i)

/-- R82: the tail has left the bottom: `head - tail > ROWS`, signed and strict. -/
def tailGone (col : Column) : Bool := decide ((Config.ROWS : Int) < (col.head - zext16 col.tail).toInt)

/-- R82 `Respawn`: `fc` keeps its value. -/
def respawn (c : Fin 21) (s : State) : State :=
  let s1 := s.afterDraw tailChoices
  let s2 := s1.afterDraw speedChoices
  s2.setCol c { s.col c with
    head := 0
    tail := BitVec.ofNat 8 (s.nextDraw tailChoices)
    speed := BitVec.ofNat 8 (s1.nextDraw speedChoices) }

/-- R81: the head moves on one row, and a column whose tail is gone respawns. -/
def moveHead (c : Fin 21) (s : State) : State :=
  let t := s.setCol c { s.col c with head := (s.col c).head + 1 }
  if tailGone (t.col c) then respawn c t else t

/-- R81 `DoAdvance`. -/
def advance (c : Fin 21) (s : State) : Run :=
  (paintTail c (s.col c).tail.toNat s).andThen fun t => .ok (moveHead c t)

/-- R80: one column's part of a tick: the counter counts down, and at zero or below it is reset to the current speed
before the column advances. -/
def tickColumn (c : Fin 21) (s : State) : Run :=
  let fc := (s.col c).fc - 1
  if fc.toInt ≤ 0 then advance c (s.setCol c { s.col c with fc := zext16 (s.col c).speed })
  else .ok (s.setCol c { s.col c with fc := fc })

/-- R80 `DoTick`. -/
def doTick (s : State) : Run := forEach tickColumn (firstCols s.ncols) s

/-- R80 `TICK`. -/
def execTick (s : State) : Host.Outcome State Fault Refusal :=
  .next (hostCommand (instrLength .tick) (needReady doTick) s)

end Sys2Proof.Machine
end

