-- ==== Sys2Proof/Machine/Init.lean ====
section
/-! DEFINITION. The initialisation sequencer: `INIT` (40_init.md). -/

namespace Sys2Proof.Machine

/-- R60, R61: the hardware reset pulse and the selection of the controller. -/
def resetPulsePlan : List Action :=
  [.setLine (.rst .asserted), .delay 10, .setLine (.rst .released), .delay 120, .setLine (.cs .selected)]

/-- R61: one entry of `INIT_TABLE`: the command byte, its payload if it has one, its wait if it has one. -/
def initStepPlan (st : InitStep) : List Action :=
  sendCmd st.cmd ++ (if st.payload = [] then [] else sendData st.payload) ++
  (if st.delay = 0 then [] else [.delay st.delay])

/-- R61: what `INIT` does on the panel interface. -/
def initPlan (table : List InitStep) : List Action := resetPulsePlan ++ table.flatMap initStepPlan

/-- R61 `DoInit`. -/
def doInit (s : State) : Run :=
  if s.state = .uninit then
    (perform (initPlan s.cfg.initTable) { s with state := .initializing }).andThen
      fun t => .ok { t with state := .ready }
  else .raised .stateError s

/-- R61 `INIT`. -/
def execInit (s : State) : Host.Outcome State Fault Refusal :=
  .next (hostCommand (instrLength .init) doInit s)

end Sys2Proof.Machine
end

