-- ==== Sys2Proof/Machine/PanelCommands.lean ====
section
/-! DEFINITION. The nineteen controller commands of the opcode table (R57). The block emits them and does not decode
them; each one's meaning is its emission on the panel interface, with the payload its row of the table names, and what
the controller makes of it (R30, R31, R40; log entry 17). None is a host command: `CP` and, unless a transfer fails,
`RESULT` and `STATE` stay as they are. -/

namespace Sys2Proof.Machine

/-- A part of a procedure on the panel interface, with the action of `TransportFail` if a transfer fails (R91). -/
def emitPlan (plan : List Action) (s : State) : State := settle (perform plan s)

/-- R58: the `INIT_TABLE` entry of a command; a table R59 admits has one (log entry 18). -/
def initEntry (table : List InitStep) (c : PanelCmd) : InitStep :=
  (table.find? fun st => decide (st.cmd = c)).getD { cmd := c, payload := [], delay := 0 }

/-- R58, R61: a command of `INIT_TABLE` with its payload and its wait. -/
def emitInitCmd (c : PanelCmd) (s : State) : State := emitPlan (initStepPlan (initEntry s.cfg.initTable c)) s

/-- `SWRESET` (R57, R58). -/
def execSwreset (s : State) : Host.Outcome State Fault Refusal := .next (emitInitCmd .swreset s)

/-- `SLPOUT` (R57, R58). -/
def execSlpout (s : State) : Host.Outcome State Fault Refusal := .next (emitInitCmd .slpout s)

/-- `FRMCTR1` (R57, R58). -/
def execFrmctr1 (s : State) : Host.Outcome State Fault Refusal := .next (emitInitCmd .frmctr1 s)

/-- `FRMCTR2` (R57, R58). -/
def execFrmctr2 (s : State) : Host.Outcome State Fault Refusal := .next (emitInitCmd .frmctr2 s)

/-- `FRMCTR3` (R57, R58). -/
def execFrmctr3 (s : State) : Host.Outcome State Fault Refusal := .next (emitInitCmd .frmctr3 s)

/-- `PWCTR1` (R57, R58). -/
def execPwctr1 (s : State) : Host.Outcome State Fault Refusal := .next (emitInitCmd .pwctr1 s)

/-- `PWCTR2` (R57, R58). -/
def execPwctr2 (s : State) : Host.Outcome State Fault Refusal := .next (emitInitCmd .pwctr2 s)

/-- `PWCTR3` (R57, R58). -/
def execPwctr3 (s : State) : Host.Outcome State Fault Refusal := .next (emitInitCmd .pwctr3 s)

/-- `PWCTR4` (R57, R58). -/
def execPwctr4 (s : State) : Host.Outcome State Fault Refusal := .next (emitInitCmd .pwctr4 s)

/-- `PWCTR5` (R57, R58). -/
def execPwctr5 (s : State) : Host.Outcome State Fault Refusal := .next (emitInitCmd .pwctr5 s)

/-- `VMCTR1` (R57, R58). -/
def execVmctr1 (s : State) : Host.Outcome State Fault Refusal := .next (emitInitCmd .vmctr1 s)

/-- `COLMOD` (R57, R58). -/
def execColmod (s : State) : Host.Outcome State Fault Refusal := .next (emitInitCmd .colmod s)

/-- `MADCTL` (R57, R58). -/
def execMadctl (s : State) : Host.Outcome State Fault Refusal := .next (emitInitCmd .madctl s)

/-- `GMCTRP1` (R57, R58). -/
def execGmctrp1 (s : State) : Host.Outcome State Fault Refusal := .next (emitInitCmd .gmctrp1 s)

/-- `GMCTRN1` (R57, R58). -/
def execGmctrn1 (s : State) : Host.Outcome State Fault Refusal := .next (emitInitCmd .gmctrn1 s)

/-- `DISPON` (R57, R58). -/
def execDispon (s : State) : Host.Outcome State Fault Refusal := .next (emitInitCmd .dispon s)

/-- `CASET` with its four-byte payload (R57, R64). -/
def execCaset (first last : Half) (s : State) : Host.Outcome State Fault Refusal :=
  .next (emitPlan (casetPlan first last) s)

/-- `RASET` with its four-byte payload (R57, R64). -/
def execRaset (first last : Half) (s : State) : Host.Outcome State Fault Refusal :=
  .next (emitPlan (rasetPlan first last) s)

/-- `RAMWR` (R57, R64). -/
def execRamwr (s : State) : Host.Outcome State Fault Refusal := .next (emitPlan (sendCmd .ramwr) s)

end Sys2Proof.Machine
end

