-- ==== Sys2Proof/Machine/Reserved.lean ====
section
/-! DEFINITION. The reserved opcodes (R54, R93). -/

namespace Sys2Proof.Machine

/-- R93: whichever byte it is, `IllegalOpcode` is raised: `RESULT` and `STOPPED` are written and `CP` still points at
the byte. -/
def execReserved (_op : Byte) (s : State) : Host.Outcome State Fault Refusal :=
  .next (settle (.raised .illegalOpcode s))

end Sys2Proof.Machine
end

