-- ==== Sys2Proof/Machine/Dispatch.lean ====
section
/-! DEFINITION. The dispatch: one arm for each instruction. -/

namespace Sys2Proof.Machine

def exec (i : Instr) (s : State) : Host.Outcome State Fault Refusal :=
  match i with
  | .init => Sys2Proof.Machine.execInit s
  | .setwin x0 y0 x1 y1 => Sys2Proof.Machine.execSetwin x0 y0 x1 y1 s
  | .wrpix color => Sys2Proof.Machine.execWrpix color s
  | .fill color => Sys2Proof.Machine.execFill color s
  | .drawpix x y color => Sys2Proof.Machine.execDrawpix x y color s
  | .drawchar x y code fg bg => Sys2Proof.Machine.execDrawchar x y code fg bg s
  | .drawstr x y fg bg text => Sys2Proof.Machine.execDrawstr x y fg bg text s
  | .colinit n => Sys2Proof.Machine.execColinit n s
  | .tick => Sys2Proof.Machine.execTick s
  | .reserved op => Sys2Proof.Machine.execReserved op s
  | .clear color => Sys2Proof.Machine.execClear color s
  | .fillscreen color => Sys2Proof.Machine.execFillscreen color s
  | .swreset => Sys2Proof.Machine.execSwreset s
  | .slpout => Sys2Proof.Machine.execSlpout s
  | .frmctr1 => Sys2Proof.Machine.execFrmctr1 s
  | .frmctr2 => Sys2Proof.Machine.execFrmctr2 s
  | .frmctr3 => Sys2Proof.Machine.execFrmctr3 s
  | .pwctr1 => Sys2Proof.Machine.execPwctr1 s
  | .pwctr2 => Sys2Proof.Machine.execPwctr2 s
  | .pwctr3 => Sys2Proof.Machine.execPwctr3 s
  | .pwctr4 => Sys2Proof.Machine.execPwctr4 s
  | .pwctr5 => Sys2Proof.Machine.execPwctr5 s
  | .vmctr1 => Sys2Proof.Machine.execVmctr1 s
  | .colmod => Sys2Proof.Machine.execColmod s
  | .madctl => Sys2Proof.Machine.execMadctl s
  | .gmctrp1 => Sys2Proof.Machine.execGmctrp1 s
  | .gmctrn1 => Sys2Proof.Machine.execGmctrn1 s
  | .dispon => Sys2Proof.Machine.execDispon s
  | .caset first last => Sys2Proof.Machine.execCaset first last s
  | .raset first last => Sys2Proof.Machine.execRaset first last s
  | .ramwr => Sys2Proof.Machine.execRamwr s

end Sys2Proof.Machine
end

