-- ==== Sys2Proof/Machine/Step.lean ====
section
/-! DEFINITION. The command cycle (R48): one step executes one host command. -/

namespace Sys2Proof.Machine

/-- R48, in the order of R96: halted, no opcode byte, an unassigned opcode (which decodes to its own instruction and
needs no further byte), an incomplete command, and then the command's own rule, which also advances `CP`. -/
def step (s : State) : Host.Outcome State Fault Refusal :=
  if s.stopped then .fault .halted
  else match decode (s.stream.drop s.cp) with
    | .ok (i, _) => exec i s
    | .error .noOpcode => .fault .noOpcode
    | .error (.incomplete _) => .fault .incompleteCommand

namespace State

/-- The state with a word of the opcode table supplied at `CP` and the command processor running, so that the next
step executes it (log entry 22). -/
def withFetchWord (s : State) (nbits w : Nat) : State :=
  { s with
    stopped := false
    stream := s.stream.take s.cp ++ List.replicate (s.cp - s.stream.length) 0#8 ++ tableBytes nbits w }

end State

end Sys2Proof.Machine
end

