-- ==== Sys2Proof/Machine/Assembler.lean ====
section
/-! DEFINITION. The assembler of R55 and R56: from the characters of a source text to its lines, and from a line to
the bytes it places in the command stream. -/

namespace Sys2Proof.Machine

/-- R55: a `code` operand, a number or a character literal. -/
inductive AsmCode where
  | number (v : Nat)
  | literal (c : Char)
  deriving DecidableEq, Repr

/-- R55: a source line with its operands as the numbers they denote, and the text of a string literal as its
characters. -/
inductive AsmLine where
  | init
  | setwin (x0 y0 x1 y1 : Nat)
  | wrpix (color : Nat)
  | fill (color : Nat)
  | drawpix (x y color : Nat)
  | drawchar (x y : Nat) (code : AsmCode) (fg bg : Nat)
  | drawstr (x y fg bg : Nat) (text : List Char)
  | colinit (n : Nat)
  | tick
  /-- R56 -/
  | clear (color : Nat)
  /-- R56 -/
  | fillscreen (color : Nat)
  /-- the directive `.byte` -/
  | bytes (vs : List Nat)
  /-- a line with nothing but a comment -/
  | comment
  deriving DecidableEq, Repr

/-- R55: a 16-bit field takes `[0, 65535]`. -/
def asmHalf (v : Nat) : Option Half := if v < 65536 then some (BitVec.ofNat 16 v) else none

/-- R55: an 8-bit field takes `[0, 255]`. -/
def asmByte (v : Nat) : Option Byte := if v < 256 then some (BitVec.ofNat 8 v) else none

/-- R55: a character stands for its ASCII code; one that has none is rejected (log entry 28). -/
def asmChar (c : Char) : Option Byte := if c.toNat < 128 then some (BitVec.ofNat 8 c.toNat) else none

def asmCode : AsmCode → Option Byte
  | .number v => asmByte v
  | .literal c => asmChar c

/-- Each element in order, or nothing if one is rejected. -/
def asmAll {α β : Type} (f : α → Option β) : List α → Option (List β)
  | [] => some []
  | a :: rest => (f a).bind fun b => (asmAll f rest).map (b :: ·)

/-- R55: the text's codes, at most 255 of them. -/
def asmText (text : List Char) : Option (List Byte) :=
  if text.length ≤ 255 then asmAll asmChar text else none

/-- The command of a source line: nothing where an operand is outside its field, and for the two lines that are no
commands. -/
def AsmLine.command : AsmLine → Option Instr
  | .init => some .init
  | .setwin x0 y0 x1 y1 =>
    (asmHalf x0).bind fun a => (asmHalf y0).bind fun b => (asmHalf x1).bind fun c => (asmHalf y1).map fun d =>
      .setwin a b c d
  | .wrpix color => (asmHalf color).map .wrpix
  | .fill color => (asmHalf color).map .fill
  | .drawpix x y color =>
    (asmHalf x).bind fun a => (asmHalf y).bind fun b => (asmHalf color).map fun c => .drawpix a b c
  | .drawchar x y code fg bg =>
    (asmHalf x).bind fun a => (asmHalf y).bind fun b => (asmCode code).bind fun k =>
      (asmHalf fg).bind fun f => (asmHalf bg).map fun g => .drawchar a b k f g
  | .drawstr x y fg bg text =>
    (asmHalf x).bind fun a => (asmHalf y).bind fun b => (asmHalf fg).bind fun f => (asmHalf bg).bind fun g =>
      (asmText text).map fun t => .drawstr a b f g t
  | .colinit n => (asmByte n).map .colinit
  | .tick => some .tick
  | .clear color => (asmHalf color).map .clear
  | .fillscreen color => (asmHalf color).map .fillscreen
  | .bytes _ => none
  | .comment => none

/-- R55: the bytes a line places in the stream, or nothing where the assembler rejects it. -/
def AsmLine.assemble : AsmLine → Option (List Byte)
  | .bytes vs => asmAll asmByte vs
  | .comment => some []
  | line => line.command.map encode

/-- R55: a program, one line after another. -/
def assemble (program : List AsmLine) : Option (List Byte) := (asmAll AsmLine.assemble program).map List.flatten

/-! ## From characters to lines -/

/-- The parts of a source line. -/
inductive AsmToken where
  | name (cs : List Char)
  | number (v : Nat)
  | literal (c : Char)
  | text (cs : List Char)
  | comma
  /-- characters that R55 gives no meaning -/
  | bad
  deriving DecidableEq, Repr

/-- The value of a digit, decimal or hexadecimal. -/
def digitValue (c : Char) : Option Nat :=
  if '0' ≤ c ∧ c ≤ '9' then some (c.toNat - 48)
  else if 'A' ≤ c ∧ c ≤ 'F' then some (c.toNat - 55)
  else if 'a' ≤ c ∧ c ≤ 'f' then some (c.toNat - 87)
  else none

/-- The number the digits write in the base, after the value of the digits before them. -/
def digitsValue (base : Nat) : Nat → List Char → Option Nat
  | acc, [] => some acc
  | acc, c :: rest =>
    match digitValue c with
    | some d => if d < base then digitsValue base (acc * base + d) rest else none
    | none => none

/-- R55: a decimal or `0x`-prefixed hexadecimal number, or a name. -/
def wordToken : List Char → AsmToken
  | '0' :: 'x' :: c :: rest =>
    match digitsValue 16 0 (c :: rest) with
    | some v => .number v
    | none => .bad
  | c :: rest =>
    if '0' ≤ c ∧ c ≤ '9' then
      match digitsValue 10 0 (c :: rest) with
      | some v => .number v
      | none => .bad
    else .name (c :: rest)
  | [] => .bad

/-- Where the reading of a line stands. -/
inductive AsmMode where
  | gap
  | word (got : List Char)
  | string (got : List Char)
  | quote
  | quoted (c : Char)
  deriving DecidableEq, Repr

def isBlank (c : Char) : Bool := decide (c = ' ') || decide (c = '\t') || decide (c = '\r')

/-- The parts of a line, up to a comment that `;` starts outside a literal. -/
def asmTokens : AsmMode → List Char → List AsmToken
  | .gap, [] => []
  | .word got, [] => [wordToken got.reverse]
  | .string _, [] => [.bad]
  | .quote, [] => [.bad]
  | .quoted _, [] => [.bad]
  | .gap, c :: rest =>
    if isBlank c then asmTokens .gap rest
    else if c = ',' then .comma :: asmTokens .gap rest
    else if c = ';' then []
    else if c = '"' then asmTokens (.string []) rest
    else if c = '\'' then asmTokens .quote rest
    else asmTokens (.word [c]) rest
  | .word got, c :: rest =>
    if isBlank c then wordToken got.reverse :: asmTokens .gap rest
    else if c = ',' then wordToken got.reverse :: .comma :: asmTokens .gap rest
    else if c = ';' then [wordToken got.reverse]
    else if c = '"' then wordToken got.reverse :: asmTokens (.string []) rest
    else if c = '\'' then wordToken got.reverse :: asmTokens .quote rest
    else asmTokens (.word (c :: got)) rest
  | .string got, c :: rest =>
    if c = '"' then .text got.reverse :: asmTokens .gap rest else asmTokens (.string (c :: got)) rest
  | .quote, c :: rest => asmTokens (.quoted c) rest
  | .quoted d, c :: rest => if c = '\'' then .literal d :: asmTokens .gap rest else [.bad]

/-- Operands separated by commas. -/
def asmOperands : List AsmToken → Option (List AsmToken)
  | [] => some []
  | [a] => some [a]
  | a :: .comma :: b :: rest => (asmOperands (b :: rest)).map (a :: ·)
  | _ => none

/-- The numbers that a list of operands is made of. -/
def asmNumbers : List AsmToken → Option (List Nat)
  | [] => some []
  | .number v :: rest => (asmNumbers rest).map (v :: ·)
  | _ => none

/-- R55, R56: the line of a mnemonic or directive with its operands. -/
def asmNamed (name : List Char) (ops : List AsmToken) : Option AsmLine :=
  if name = ['I', 'N', 'I', 'T'] then (match ops with | [] => some .init | _ => none)
  else if name = ['S', 'E', 'T', 'W', 'I', 'N'] then
    (match ops with
     | [.number x0, .number y0, .number x1, .number y1] => some (.setwin x0 y0 x1 y1)
     | _ => none)
  else if name = ['W', 'R', 'P', 'I', 'X'] then (match ops with | [.number c] => some (.wrpix c) | _ => none)
  else if name = ['F', 'I', 'L', 'L'] then (match ops with | [.number c] => some (.fill c) | _ => none)
  else if name = ['D', 'R', 'A', 'W', 'P', 'I', 'X'] then
    (match ops with | [.number x, .number y, .number c] => some (.drawpix x y c) | _ => none)
  else if name = ['D', 'R', 'A', 'W', 'C', 'H', 'A', 'R'] then
    (match ops with
     | [.number x, .number y, .number k, .number f, .number b] => some (.drawchar x y (.number k) f b)
     | [.number x, .number y, .literal k, .number f, .number b] => some (.drawchar x y (.literal k) f b)
     | _ => none)
  else if name = ['D', 'R', 'A', 'W', 'S', 'T', 'R'] then
    (match ops with
     | [.number x, .number y, .number f, .number b, .text cs] => some (.drawstr x y f b cs)
     | _ => none)
  else if name = ['C', 'O', 'L', 'I', 'N', 'I', 'T'] then
    (match ops with | [.number n] => some (.colinit n) | _ => none)
  else if name = ['T', 'I', 'C', 'K'] then (match ops with | [] => some .tick | _ => none)
  else if name = ['C', 'L', 'E', 'A', 'R'] then (match ops with | [.number c] => some (.clear c) | _ => none)
  else if name = ['F', 'I', 'L', 'L', 'S', 'C', 'R', 'E', 'E', 'N'] then
    (match ops with | [.number c] => some (.fillscreen c) | _ => none)
  else if name = ['.', 'b', 'y', 't', 'e'] then
    (match asmNumbers ops with
     | some (v :: vs) => some (.bytes (v :: vs))
     | _ => none)
  else none

/-- The line the parts make. -/
def asmParse : List AsmToken → Option AsmLine
  | [] => some .comment
  | .name name :: rest => (asmOperands rest).bind (asmNamed name)
  | _ => none

/-- The lines of a source text: the characters of the current line are given reversed. -/
def asmSplit : List Char → List Char → List (List Char)
  | got, [] => [got.reverse]
  | got, c :: rest => if c = '\n' then got.reverse :: asmSplit [] rest else asmSplit (c :: got) rest

/-- R55: the bytes of a source text, one command a line, or nothing where the assembler rejects it. -/
def assembleText (source : List Char) : Option (List Byte) :=
  (asmAll (fun line => asmParse (asmTokens .gap line)) (asmSplit [] source)).bind assemble

end Sys2Proof.Machine
end

