-- ==== Sys2Proof/Safety.lean ====
section
/-! DEFINITION. The terms the claims are stated in: when the transport answers `OK`, what the trace of a procedure
looks like in the notation of 95_test_vectors.md, what a command leaves alone, and the invariants of the machine. -/

namespace Sys2Proof.Machine

/-! ## The environment -/

/-- The transport answers `OK` to each of the next `n` transfers. -/
def State.repliesOk (s : State) (n : Nat) : Prop := ∀ k, k < n → s.replyAt (s.txCount + k) = .ok

/-- The transport answers `OK` to the next `n` transfers and `FAIL` to the one after them. -/
def State.failsAfter (s : State) (n : Nat) : Prop :=
  s.repliesOk n ∧ ∃ reached, s.replyAt (s.txCount + n) = .fail reached

/-! ## Traces -/

/-- `C(b)` of 95_test_vectors.md: a command byte sent (R30). -/
def cmdSent (b : Byte) : List Event := [.line (.dc .command), .tx [b] .ok]

/-- `D(bs)` of 95_test_vectors.md: a payload or a pixel sent (R31). -/
def dataSent (bs : List Byte) : List Event := [.line (.dc .data), .tx bs .ok]

/-- The trace of `DoSetWindow` (R64): the logical coordinates, the panel offset added modulo 2^16. -/
def windowSent (x0 y0 x1 y1 : Half) : List Event :=
  cmdSent 0x2A ++ dataSent [hiByte (x0 + 2), loByte (x0 + 2), hiByte (x1 + 2), loByte (x1 + 2)] ++
  cmdSent 0x2B ++ dataSent [hiByte (y0 + 1), loByte (y0 + 1), hiByte (y1 + 1), loByte (y1 + 1)] ++
  cmdSent 0x2C

/-- The trace of `DoDrawPixel` on the panel (R71). -/
def pixelSent (x y c : Half) : List Event := windowSent x y x y ++ dataSent [hiByte c, loByte c]

/-- The trace of a drawn character (R73): glyph columns left to right, each top to bottom, then the spacing column. -/
def charSent (cfg : Config) (x y : Half) (code : Byte) (fg bg : Half) : List Event :=
  ((List.range 5).flatMap fun k => (List.range 8).flatMap fun r =>
    pixelSent (x + BitVec.ofNat 16 k) (y + BitVec.ofNat 16 r)
      (if (cfg.glyph.getD (5 * code.toNat + k) 0).getLsbD r then fg else bg)) ++
  (List.range 8).flatMap fun r => pixelSent (x + 5) (y + BitVec.ofNat 16 r) bg

/-- The trace of one entry of `INIT_TABLE` (R61). -/
def initStepSent (st : InitStep) : List Event :=
  cmdSent (cmdByte st.cmd) ++ (if st.payload = [] then [] else dataSent st.payload) ++
  (if st.delay = 0 then [] else [.delay st.delay])

/-- The transfers of one entry of `INIT_TABLE` (R61). -/
def initStepTransfers (st : InitStep) : Nat := if st.payload = [] then 1 else 2

/-- The byte lists a trace transfers while the data/command line is in the command state, the line starting at `dc`. -/
def commandTransfers : DcState → List Event → List (List Byte)
  | _, [] => []
  | _, .line (.dc v) :: rest => commandTransfers v rest
  | .command, .tx bs _ :: rest => bs :: commandTransfers .command rest
  | dc, _ :: rest => commandTransfers dc rest

/-- The transport writes of a trace (R32): its `Tx` events. -/
def transportWrites : List Event → Nat
  | [] => 0
  | .tx _ _ :: rest => transportWrites rest + 1
  | _ :: rest => transportWrites rest

/-- No transfer of the trace was answered with `FAIL`. -/
def noFailure (evs : List Event) : Prop := ∀ bs, Event.tx bs .fail ∉ evs

/-! ## Frames -/

/-- What a command leaves alone that only sends on the panel interface: everything but `RESULT`, `STATE`, the lines,
`CP`, the trace, the transfer count and the controller. -/
structure PanelFrame (s t : State) : Prop where
  stopped   : t.stopped = s.stopped
  ncols     : t.ncols = s.ncols
  cols      : t.cols = s.cols
  stream    : t.stream = s.stream
  drawCount : t.drawCount = s.drawCount
  env       : t.env = s.env
  cfg       : t.cfg = s.cfg

/-- What a command leaves alone that emits no event at all: everything but `RESULT`, `STOPPED` and `CP`. -/
structure SilentFrame (s t : State) : Prop where
  state     : t.state = s.state
  lines     : t.lines = s.lines
  ncols     : t.ncols = s.ncols
  cols      : t.cols = s.cols
  stream    : t.stream = s.stream
  log       : t.log = s.log
  txCount   : t.txCount = s.txCount
  drawCount : t.drawCount = s.drawCount
  panel     : t.panel = s.panel
  env       : t.env = s.env
  cfg       : t.cfg = s.cfg

/-! ## The animation -/

/-- R80: the column advances on this tick. -/
abbrev columnDue (c : Column) : Prop := (c.fc - 1).toInt ≤ 0

/-- R82: a column that advances now respawns. -/
abbrev columnRespawns (c : Column) : Prop := 20 < (c.head + 1 - zext16 c.tail).toInt

/-- R81: the cells of the visible tail, counted. -/
def columnCells (c : Column) : Nat :=
  ((List.range (c.tail.toNat + 1)).filter fun i => rowVisible (c.head - BitVec.ofNat 16 i)).length

/-- R81: the trace of a column's repaint, from the far end of the visible tail to the head: for each cell the random
source's answer, the first of them to draw number `d`, and the character's transfers. -/
def tailSent (s : State) (d : Nat) (c : Fin 21) : List Event :=
  ((List.range ((s.col c).tail.toNat + 1)).reverse.filter
      fun i => rowVisible ((s.col c).head - BitVec.ofNat 16 i)).zipIdx.flatMap fun p =>
    let v := pick (alphabetChoices s.cfg) (s.offerAt (d + p.2))
    .draw (alphabetChoices s.cfg) v ::
      charSent s.cfg (BitVec.ofNat 16 (6 * c.val))
        (BitVec.ofNat 16 (8 * ((s.col c).head - BitVec.ofNat 16 p.1).toNat))
        (BitVec.ofNat 8 v) (if p.1 < s.cfg.ramp.length then s.cfg.ramp.getD p.1 0 else 0x0000) 0x0000

/-- R82: the tail a respawn draws, when its two draws begin with number `d`. -/
def respawnTail (s : State) (d : Nat) : Nat := pick (rangeList 4 13) (s.offerAt d)

/-- R82: the speed a respawn draws: the draw after the tail's. -/
def respawnSpeed (s : State) (d : Nat) : Nat := pick (rangeList 1 3) (s.offerAt (d + 1))

/-- R81, R82: the trace of one column's advance whose draws begin with number `d`: its repaint, then the two draws of
a respawn. -/
def advanceSent (s : State) (d : Nat) (c : Fin 21) : List Event :=
  tailSent s d c ++
  if columnRespawns (s.col c) then
    [.draw (rangeList 4 13) (respawnTail s (d + columnCells (s.col c))),
     .draw (rangeList 1 3) (respawnSpeed s (d + columnCells (s.col c)))]
  else []

/-- R80, R81: the cells a tick paints. -/
def tickCells (s : State) : Nat :=
  ((firstCols s.ncols).map fun c => if columnDue (s.col c) then columnCells (s.col c) else 0).sum

/-- R80 to R82: the draws a column makes on a tick: one for each cell it paints and two if it respawns. -/
def columnDraws (c : Column) : Nat :=
  if columnDue c then columnCells c + (if columnRespawns c then 2 else 0) else 0

/-- R80: the number of the first draw column `c` makes on a tick: the columns before it have made theirs. -/
def tickDrawStart (s : State) (c : Fin 21) : Nat :=
  s.drawCount + (((firstCols s.ncols).filter fun b => decide (b < c)).map fun b => columnDraws (s.col b)).sum

/-- R80, R81: the trace of a tick: the due columns' advances, in index order. -/
def tickSent (s : State) : List Event :=
  (firstCols s.ncols).flatMap fun c => if columnDue (s.col c) then advanceSent s (tickDrawStart s c) c else []

/-- R80 to R82: what a tick leaves in active column `c`. -/
structure ColumnTicked (s t : State) (c : Fin 21) : Prop where
  /-- not due: it only counts down -/
  waits : ¬ columnDue (s.col c) → t.col c = { s.col c with fc := (s.col c).fc - 1 }
  /-- due, and its tail still on the grid: the counter at its speed and the head one row on -/
  moves : columnDue (s.col c) → ¬ columnRespawns (s.col c) →
    t.col c = { s.col c with head := (s.col c).head + 1, fc := zext16 (s.col c).speed }
  /-- due, and its tail gone: row 0, the tail and the speed drawn, the counter at the old speed -/
  respawns : columnDue (s.col c) → columnRespawns (s.col c) →
    t.col c =
      { head := 0
        tail := BitVec.ofNat 8 (respawnTail s (tickDrawStart s c + columnCells (s.col c)))
        speed := BitVec.ofNat 8 (respawnSpeed s (tickDrawStart s c + columnCells (s.col c)))
        fc := zext16 (s.col c).speed } ∧
    4 ≤ (t.col c).tail.toNat ∧ (t.col c).tail.toNat ≤ 13 ∧ 1 ≤ (t.col c).speed.toNat ∧ (t.col c).speed.toNat ≤ 3

/-- `n` ticks one after another, with nothing in between (R117). -/
def ticks : Nat → State → Host.Outcome State Fault Refusal
  | 0, s => .next s
  | n + 1, s =>
    match exec .tick s with
    | .next t => ticks n t
    | .fault f => .fault f
    | .refused r => .refused r

/-! ## Invariants -/

/-- R85: the legal values of an active column between two commands. -/
def columnLegal (c : Column) : Prop :=
  4 ≤ c.tail.toNat ∧ c.tail.toNat ≤ 13 ∧
  1 ≤ c.speed.toNat ∧ c.speed.toNat ≤ 3 ∧
  0 ≤ c.fc.toInt ∧ c.fc.toInt ≤ 9 ∧
  0 ≤ c.head.toInt ∧ c.head.toInt ≤ 20 + c.tail.toNat

/-- R21 and R85. -/
def columnsLegal (s : State) : Prop :=
  s.ncols.toNat ≤ 21 ∧ ∀ c : Fin 21, c.val < s.ncols.toNat → columnLegal (s.col c)

/-- R13 to R19: between two commands `INIT` is not under way, the reset line is released, the controller is selected
exactly in `READY`, and a stopped block shows `ERR_ILLEGAL`. -/
def lifecycleLegal (s : State) : Prop :=
  s.state ≠ .initializing ∧ s.lines.rst = .released ∧
  (s.lines.cs = .selected ↔ s.state = .ready) ∧
  (s.stopped = true → s.result = .errIllegal)

/-- A controller whose memory is in its canonical form and within its bounds, and whose window parameter under way has
fewer than four bytes (R39, R40). -/
def Panel.Legal (cfg : Config) (p : Panel) : Prop :=
  Gram.wf p.gram = true ∧
  (∀ e ∈ p.gram, e.1 < cfg.gramW * cfg.gramH) ∧
  (∀ b got, p.regs.mode = .param b got → got.length < 4)

/-- The controller of the state is legal. -/
def panelLegal (s : State) : Prop := Panel.Legal s.cfg s.panel

/-- The machine's invariant. -/
def Inv (s : State) : Prop := columnsLegal s ∧ lifecycleLegal s ∧ panelLegal s

end Sys2Proof.Machine
end

