-- ==== Sys2Proof/Certificates/Slice0/Obligations.lean ====
section
/-! DEFINITION. The statements about the machine that are to be proved. -/

open Sys2Proof Sys2Proof.Machine

/-! ## Encoding and the command cycle -/

/-- R50 to R54, R56: decoding the bytes of a well-formed host command gives the command (a pseudo-instruction's bytes
give its expansion) and leaves the bytes after it. -/
def Obligations.DecodeReadsEncodedCommand : Prop :=
  ∀ (i : Instr) (rest : List Byte), i.isHostCommand = true → i.wellFormed = true →
    decode (encode i ++ rest) = .ok (i.expand, rest)

/-- R50 to R52: whatever the decoder answers, the bytes it read are exactly that command's word, of R52's length, and
the command is well formed and never a pseudo-instruction or a controller command. -/
def Obligations.DecodedBytesAreTheCommandsWord : Prop :=
  ∀ (bs : List Byte) (i : Instr) (rest : List Byte), decode bs = .ok (i, rest) →
    bs = encode i ++ rest ∧ (encode i).length = instrLength i ∧
    i.wellFormed = true ∧ i.isHostCommand = true ∧ i.expand = i

/-- R50, R53, R54 on words written out from the formats (95_test_vectors.md section 5 gives their bytes). -/
def Obligations.WordsOfTheSpecDecode : Prop :=
  decode [0x01] = .ok (.init, []) ∧
  decode [0x02, 0x00, 0x0A, 0x00, 0x14, 0x00, 0x7F, 0x00, 0x9F] = .ok (.setwin 10 20 127 159, []) ∧
  decode [0x03, 0xF8, 0x00] = .ok (.wrpix 0xF800, []) ∧
  decode [0x04, 0x00, 0x00, 0x05] = .ok (.fill 0, [0x05]) ∧
  decode [0x05, 0x00, 0x0A, 0x00, 0x14, 0xFF, 0xFF] = .ok (.drawpix 10 20 0xFFFF, []) ∧
  decode [0x06, 0x00, 0x00, 0x00, 0x00, 0x1F, 0xFF, 0xFF, 0x00, 0x00] = .ok (.drawchar 0 0 31 0xFFFF 0, []) ∧
  decode [0x07, 0x00, 0x00, 0x00, 0x00, 0x07, 0xE0, 0x00, 0x00, 0x02, 0x41, 0x42, 0x06] =
    .ok (.drawstr 0 0 0x07E0 0 [0x41, 0x42], [0x06]) ∧
  decode [0x08, 0x02] = .ok (.colinit 2, []) ∧
  decode [0x09] = .ok (.tick, []) ∧
  decode [0x0A, 0x09] = .ok (.reserved 0x0A, [0x09])

/-- R55, R56: a line that has a command assembles to bytes that the decoder reads as that command (a
pseudo-instruction's as `FILL`); in every form operands in their fields mean their own values, a literal its ASCII
codes; a `.byte` line is its bytes as they are; and in every form an operand outside its field is rejected (a character
without an ASCII code by the model's choice, log entry 28). -/
def Obligations.AssembledLinesDecodeToTheirCommands : Prop :=
  (∀ (line : AsmLine) (i : Instr) (rest : List Byte), line.command = some i →
    ∃ bs, line.assemble = some bs ∧ decode (bs ++ rest) = .ok (i.expand, rest)) ∧
  (AsmLine.init.command = some .init ∧ AsmLine.tick.command = some .tick ∧ AsmLine.comment.assemble = some []) ∧
  (∀ x0 y0 x1 y1 : Half,
    (AsmLine.setwin x0.toNat y0.toNat x1.toNat y1.toNat).command = some (.setwin x0 y0 x1 y1)) ∧
  (∀ c : Half,
    (AsmLine.wrpix c.toNat).command = some (.wrpix c) ∧ (AsmLine.fill c.toNat).command = some (.fill c) ∧
    (AsmLine.clear c.toNat).command = some (.clear c) ∧
    (AsmLine.fillscreen c.toNat).command = some (.fillscreen c)) ∧
  (∀ x y c : Half, (AsmLine.drawpix x.toNat y.toNat c.toNat).command = some (.drawpix x y c)) ∧
  (∀ (x y fg bg : Half) (code : Byte),
    (AsmLine.drawchar x.toNat y.toNat (.number code.toNat) fg.toNat bg.toNat).command =
      some (.drawchar x y code fg bg)) ∧
  (∀ (x y fg bg : Half) (ch : Char), ch.toNat < 128 →
    (AsmLine.drawchar x.toNat y.toNat (.literal ch) fg.toNat bg.toNat).command =
      some (.drawchar x y (BitVec.ofNat 8 ch.toNat) fg bg)) ∧
  (∀ (x y fg bg : Half) (text : List Char), text.length ≤ 255 → (∀ ch ∈ text, ch.toNat < 128) →
    (AsmLine.drawstr x.toNat y.toNat fg.toNat bg.toNat text).command =
      some (.drawstr x y fg bg (text.map fun ch => BitVec.ofNat 8 ch.toNat))) ∧
  (∀ n : Byte, (AsmLine.colinit n.toNat).command = some (.colinit n)) ∧
  (∀ bs : List Byte, (AsmLine.bytes (bs.map BitVec.toNat)).assemble = some bs) ∧
  (∀ x0 y0 x1 y1 : Nat, 65535 < x0 ∨ 65535 < y0 ∨ 65535 < x1 ∨ 65535 < y1 →
    (AsmLine.setwin x0 y0 x1 y1).assemble = none) ∧
  (∀ c : Nat, 65535 < c →
    (AsmLine.wrpix c).assemble = none ∧ (AsmLine.fill c).assemble = none ∧ (AsmLine.clear c).assemble = none ∧
    (AsmLine.fillscreen c).assemble = none) ∧
  (∀ x y c : Nat, 65535 < x ∨ 65535 < y ∨ 65535 < c → (AsmLine.drawpix x y c).assemble = none) ∧
  (∀ (x y fg bg : Nat) (code : AsmCode), 65535 < x ∨ 65535 < y ∨ 65535 < fg ∨ 65535 < bg ∨
      (∃ v, code = .number v ∧ 255 < v) ∨ (∃ ch, code = .literal ch ∧ 128 ≤ ch.toNat) →
    (AsmLine.drawchar x y code fg bg).assemble = none) ∧
  (∀ (x y fg bg : Nat) (text : List Char), 65535 < x ∨ 65535 < y ∨ 65535 < fg ∨ 65535 < bg ∨
      255 < text.length ∨ (∃ ch ∈ text, 128 ≤ ch.toNat) →
    (AsmLine.drawstr x y fg bg text).assemble = none) ∧
  (∀ n : Nat, 255 < n → (AsmLine.colinit n).assemble = none) ∧
  (∀ vs : List Nat, (∃ v ∈ vs, 255 < v) → (AsmLine.bytes vs).assemble = none)

/-- R48: while the block is not stopped, a step runs the command the decoder reads at `CP`; so a well-formed host
command supplied at `CP` runs, a pseudo-instruction as its expansion, and `CP` moves past its bytes (a reserved opcode
leaves it). -/
def Obligations.StepRunsTheCommandAtCp : Prop :=
  (∀ (s : State) (i : Instr) (rest : List Byte), s.stopped = false → decode (s.stream.drop s.cp) = .ok (i, rest) →
    step s = exec i s) ∧
  (∀ (s : State) (i : Instr) (rest : List Byte), s.stopped = false → i.isHostCommand = true → i.wellFormed = true →
    s.stream.drop s.cp = encode i ++ rest →
    step s = exec i.expand s ∧
    ∃ t, step s = .next t ∧ t.cp = s.cp + (match i with | .reserved _ => 0 | _ => (encode i).length))

/-- R48, R96: when the command cycle takes no step: stopped, whatever is supplied; no byte at `CP`; an assigned opcode
whose command is not wholly supplied, in every `STATE` (each a named stuck state of the model, log entry 13). -/
def Obligations.StepWaitsForAWholeCommand : Prop :=
  (∀ s : State, s.stopped = true → step s = .fault .halted) ∧
  (∀ s : State, s.stopped = false → s.stream.length ≤ s.cp → step s = .fault .noOpcode) ∧
  (∀ (s : State) (op : Byte) (rest : List Byte) (n : Nat), s.stopped = false → s.stream.drop s.cp = op :: rest →
    (op, n) ∈ [((0x02 : Byte), 9), (0x03, 3), (0x04, 3), (0x05, 7), (0x06, 10), (0x08, 2)] → rest.length + 1 < n →
    step s = .fault .incompleteCommand) ∧
  (∀ (s : State) (rest : List Byte), s.stopped = false → s.stream.drop s.cp = 0x07 :: rest →
    (rest.length < 9 ∨ ∃ len, rest[8]? = some len ∧ rest.length < 9 + len.toNat) →
    step s = .fault .incompleteCommand)

/-- R20, R52: every host command that ends, however it ends, advances `CP` by its length; a reserved opcode does not
advance it, and the controller commands, which are no host commands, do not either (the model's choice, log
entry 17). -/
def Obligations.CpAdvancesByTheCommandsLength : Prop :=
  ∀ (i : Instr) (s t : State), exec i s = .next t →
    t.cp = s.cp + (match i with
      | .init => 1 | .tick => 1 | .colinit _ => 2 | .wrpix _ => 3 | .fill _ => 3 | .clear _ => 3 | .fillscreen _ => 3
      | .drawpix _ _ _ => 7 | .setwin _ _ _ _ => 9 | .drawchar _ _ _ _ _ => 10
      | .drawstr _ _ _ _ text => 10 + text.length
      | _ => 0)

/-- R48, R90: no instruction stops the machine: each answers a next state from every state. -/
def Obligations.EveryInstructionAnswersANextState : Prop :=
  ∀ (i : Instr) (s : State), ∃ t, exec i s = .next t

/-! ## Reset and the status registers -/

/-- R25, R108: what reset leaves (the column fields, the controller and the configuration are the model's choices, log
entries 1 to 3, and are not stated). -/
def Obligations.ResetLeavesTheSpecsValues : Prop :=
  State.reset.state = .uninit ∧ State.reset.result = .ok ∧ State.reset.stopped = false ∧
  State.reset.lines = { rst := .released, dc := .command, cs := .deselected } ∧
  State.reset.cp = 0 ∧ State.reset.ncols = 0 ∧ State.reset.trace = []

/-- R108: block reset sets the registers, emits no event, leaves the controller alone, starts at `CP = 0`, and is the
only way out of `FAILED` and `STOPPED = 1`. -/
def Obligations.BlockResetIsTheOnlyWayOut : Prop :=
  (∀ s : State,
    s.blockReset.state = .uninit ∧ s.blockReset.result = .ok ∧ s.blockReset.stopped = false ∧
    s.blockReset.lines = { rst := .released, dc := .command, cs := .deselected } ∧
    s.blockReset.cp = 0 ∧ s.blockReset.ncols = 0 ∧
    s.blockReset.trace = s.trace ∧ s.blockReset.panel = s.panel) ∧
  (∀ s t : State, step s = .next t → s.state = .failed → t.state = .failed) ∧
  (∀ s : State, s.stopped = true → ∀ t, step s ≠ .next t)

/-- R24: the three status registers, bit by bit; every other number reads 0; no other state is readable. -/
def Obligations.StatusRegistersReadTheState : Prop :=
  (∀ s : State,
    (s.readStatus 0x00).extractLsb' 0 2 =
      (match s.state with | .uninit => 0 | .initializing => 1 | .ready => 2 | .failed => 3) ∧
    (s.readStatus 0x00).getLsbD 2 = s.stopped ∧
    (s.readStatus 0x00).extractLsb' 3 3 =
      (match s.result with | .ok => 0 | .errTransport => 1 | .errState => 2 | .errIllegal => 3 | .errRange => 4) ∧
    (s.readStatus 0x00).extractLsb' 6 2 = 0 ∧
    ((s.readStatus 0x01).getLsbD 0 = true ↔ s.lines.rst = .asserted) ∧
    ((s.readStatus 0x01).getLsbD 1 = true ↔ s.lines.dc = .data) ∧
    ((s.readStatus 0x01).getLsbD 2 = true ↔ s.lines.cs = .selected) ∧
    (s.readStatus 0x01).extractLsb' 3 5 = 0 ∧
    s.readStatus 0x02 = s.ncols ∧
    ∀ n : Byte, 0x03 ≤ n.toNat → s.readStatus n = 0x00) ∧
  (∀ (s t : State) (n : Byte), t.state = s.state → t.stopped = s.stopped → t.result = s.result → t.lines = s.lines →
    t.ncols = s.ncols → t.readStatus n = s.readStatus n)

/-! ## Errors -/

/-- R93: an unassigned opcode at `CP`, whatever follows it, writes `RESULT` (code 3) and `STOPPED` and nothing else; the
block then takes no step, whatever the host supplies. -/
def Obligations.ReservedOpcodeStopsTheBlock : Prop :=
  (∀ (op : Byte) (s : State), exec (.reserved op) s = .next { s with result := .errIllegal, stopped := true }) ∧
  (∀ (s : State) (op : Byte) (rest : List Byte), s.stopped = false → s.stream.drop s.cp = op :: rest →
    (op.toNat = 0 ∨ 0x0A ≤ op.toNat) →
    ∃ t, step s = .next t ∧ t = { s with result := .errIllegal, stopped := true } ∧
      ∀ bs, step (t.supply bs) = .fault .halted) ∧
  resultCode .errIllegal = 3

/-- R92: outside the `STATE` it needs, a command writes `ERR_STATE` (code 2) and does nothing else (`CP` moves past it,
R48); in that `STATE` no command answers `ERR_STATE`, and `COLINIT` in none. -/
def Obligations.WrongStateIsRejectedWithoutEffect : Prop :=
  (∀ s : State, s.state ≠ .uninit → exec .init s = .next { s with result := .errState, cp := s.cp + 1 }) ∧
  (∀ (i : Instr) (s : State), s.state ≠ .ready →
    (∃ x0 y0 x1 y1, i = .setwin x0 y0 x1 y1) ∨ (∃ c, i = .wrpix c) ∨ (∃ c, i = .fill c) ∨ (∃ c, i = .clear c) ∨
      (∃ c, i = .fillscreen c) ∨ (∃ x y c, i = .drawpix x y c) ∨ (∃ x y code fg bg, i = .drawchar x y code fg bg) ∨
      (∃ x y fg bg text, i = .drawstr x y fg bg text) ∨ i = .tick →
    exec i s = .next { s with result := .errState, cp := s.cp + instrLength i }) ∧
  (∀ (i : Instr) (s t : State), i.isHostCommand = true → exec i s = .next t → t.result = .errState →
    (∀ n, i ≠ .colinit n) ∧ (i = .init → s.state ≠ .uninit) ∧ (i ≠ .init → s.state ≠ .ready)) ∧
  resultCode .errState = 2

/-- R94: `COLINIT` of more than 21 columns writes `ERR_RANGE` (code 4) and nothing else (`CP` moves past it, R48), and
no other host command writes it. -/
def Obligations.RangeErrorOnlyFromColinit : Prop :=
  (∀ (n : Byte) (s : State), 21 < n.toNat →
    exec (.colinit n) s = .next { s with result := .errRange, cp := s.cp + 2 }) ∧
  (∀ (i : Instr) (s t : State), i.isHostCommand = true → exec i s = .next t → t.result = .errRange →
    ∃ n : Byte, i = .colinit n ∧ 21 < n.toNat) ∧
  resultCode .errRange = 4

/-- R29, R90, R91, R97: every instruction either has each of its transfers answered `OK`, or ends at the first one
answered `FAIL`, which is the last transfer of the trace, followed by the deselection of the controller, in `FAILED`. -/
def Obligations.FirstFailedTransferEndsTheCommand : Prop :=
  ∀ (i : Instr) (s t : State), exec i s = .next t →
    (∃ evs, t.trace = s.trace ++ evs ∧ noFailure evs ∧ s.repliesOk (transportWrites evs) ∧
      t.txCount = s.txCount + transportWrites evs ∧ (t.result = .errTransport → t.result = s.result)) ∨
    (∃ evs bs, t.trace = s.trace ++ evs ++ [.tx bs .fail, .line (.cs .deselected)] ∧ noFailure evs ∧
      s.failsAfter (transportWrites evs) ∧ t.txCount = s.txCount + transportWrites evs + 1 ∧
      t.state = .failed ∧ t.result = .errTransport ∧ t.lines.cs = .deselected)

/-- R91: after a failure, in `FAILED`, no host command makes a transfer or any other event that reaches the panel. -/
def Obligations.FailedBlockMakesNoTransfer : Prop :=
  ∀ s t : State, s.state = .failed → step s = .next t →
    t.txCount = s.txCount ∧ t.lines = s.lines ∧ t.panel = s.panel ∧ t.state = .failed

/-! ## INIT -/

/-- R60, R61: `INIT` from `UNINIT` with every transfer answered `OK`: the reset pulse, the selection, then every entry
of `INIT_TABLE` in order. R39, R109: with a table R59 admits, whose software reset has no payload, it leaves no pixel
of the controller's memory with a value (that data the model does not follow leaves none is log entry 9). -/
def Obligations.InitRunsTheTable : Prop :=
  ∀ s : State, s.state = .uninit → s.repliesOk (s.cfg.initTable.map initStepTransfers).sum →
    ∃ t, exec .init s = .next t ∧
      t.trace = s.trace ++
        [.line (.rst .asserted), .delay 10, .line (.rst .released), .delay 120, .line (.cs .selected)] ++
        s.cfg.initTable.flatMap initStepSent ∧
      t.state = .ready ∧ t.result = .ok ∧ t.cp = s.cp + 1 ∧
      t.lines.rst = .released ∧ t.lines.cs = .selected ∧
      (∀ st, s.cfg.initTable.getLast? = some st → t.lines.dc = if st.payload = [] then .command else .data) ∧
      t.txCount = s.txCount + (s.cfg.initTable.map initStepTransfers).sum ∧ PanelFrame s t ∧
      (s.cfg.legal = true → (∀ st ∈ s.cfg.initTable, st.cmd = .swreset → st.payload = []) →
        ∀ a, Gram.read t.panel.gram a = none)

/-- R61, R112, R118: with the default table, 29 transfers, the lines as the worked example says, and waits of at least
10 + 120 + 150 + 255 + 100 units. -/
def Obligations.InitDefaultTableCounts : Prop :=
  ∀ (s : State) (m : Byte), s.state = .uninit → s.cfg.initTable = defaultInitTable m → s.repliesOk 29 →
    ∃ t evs, exec .init s = .next t ∧ t.trace = s.trace ++ evs ∧
      transportWrites evs = 29 ∧ evs.length = 66 ∧ minWait s.cfg evs = 635 * s.cfg.timeUnit ∧
      t.lines = { rst := .released, dc := .command, cs := .selected } ∧ t.state = .ready

/-! ## The window and the pixel stream -/

/-- R64, R68: `SETWIN` sends the two payloads with the offset applied and the memory-write command, unchecked. -/
def Obligations.SetwinSendsTheWindow : Prop :=
  ∀ (x0 y0 x1 y1 : Half) (s : State), s.state = .ready → s.repliesOk 5 →
    ∃ t, exec (.setwin x0 y0 x1 y1) s = .next t ∧
      t.trace = s.trace ++
        [.line (.dc .command), .tx [0x2A] .ok,
         .line (.dc .data), .tx [hiByte (x0 + 2), loByte (x0 + 2), hiByte (x1 + 2), loByte (x1 + 2)] .ok,
         .line (.dc .command), .tx [0x2B] .ok,
         .line (.dc .data), .tx [hiByte (y0 + 1), loByte (y0 + 1), hiByte (y1 + 1), loByte (y1 + 1)] .ok,
         .line (.dc .command), .tx [0x2C] .ok] ∧
      t.result = .ok ∧ t.state = .ready ∧ t.cp = s.cp + 9 ∧ t.txCount = s.txCount + 5 ∧
      t.lines = { s.lines with dc := .command } ∧ PanelFrame s t

/-- R40, R42: after `SETWIN` the controller holds the window and its pointer stands at the window's start, whatever it
was doing before; operands that meet R65 change no pixel. That after operands that break R65 no pixel has a value is
the model's choice (log entries 4 and 10; R40 and R41 alone would keep the memory here). -/
def Obligations.SetwinSetsTheControllersWindow : Prop :=
  ∀ (x0 y0 x1 y1 : Half) (s : State), s.state = .ready → s.repliesOk 5 →
    ∃ t, exec (.setwin x0 y0 x1 y1) s = .next t ∧
      t.panel.regs = { wx0 := x0 + 2, wx1 := x1 + 2, wy0 := y0 + 1, wy1 := y1 + 1, px := x0 + 2, py := y0 + 1,
                       mode := .memwrite none } ∧
      ∀ a, Gram.read t.panel.gram a =
        if x0.toNat ≤ x1.toNat ∧ x1.toNat < 128 ∧ y0.toNat ≤ y1.toNat ∧ y1.toNat < 160 then
          Gram.read s.panel.gram a
        else none

/-- R66, R69: `WRPIX` sends one pixel, most significant byte first. -/
def Obligations.WrpixSendsOnePixel : Prop :=
  ∀ (color : Half) (s : State), s.state = .ready → s.repliesOk 1 →
    ∃ t, exec (.wrpix color) s = .next t ∧
      t.trace = s.trace ++ [.line (.dc .data), .tx [hiByte color, loByte color] .ok] ∧
      t.result = .ok ∧ t.state = .ready ∧ t.cp = s.cp + 3 ∧ t.txCount = s.txCount + 1 ∧
      t.lines = { s.lines with dc := .data } ∧ PanelFrame s t

/-- R41: a pixel sent to a primed controller, through a window that meets R65 and with the pointer inside the memory,
is stored at the pointer, changes no other pixel, and the pointer moves on in row-major order, by the default `WRAP`
back to the window's start. -/
def Obligations.WrpixStoresAtThePointer : Prop :=
  ∀ (color : Half) (s : State), s.state = .ready → s.repliesOk 1 → s.panel.regs.mode = .memwrite none →
    2 ≤ s.panel.regs.wx0.toNat → s.panel.regs.wx0.toNat ≤ s.panel.regs.wx1.toNat → s.panel.regs.wx1.toNat < 130 →
    1 ≤ s.panel.regs.wy0.toNat → s.panel.regs.wy0.toNat ≤ s.panel.regs.wy1.toNat → s.panel.regs.wy1.toNat < 161 →
    s.panel.regs.px.toNat < s.cfg.gramW → s.panel.regs.py.toNat < s.cfg.gramH → s.cfg.wrap = .toWindowStart →
    ∃ t, exec (.wrpix color) s = .next t ∧
      Gram.read t.panel.gram (gramAddr s.cfg s.panel.regs.px.toNat s.panel.regs.py.toNat) = some color ∧
      (∀ a, a ≠ gramAddr s.cfg s.panel.regs.px.toNat s.panel.regs.py.toNat →
        Gram.read t.panel.gram a = Gram.read s.panel.gram a) ∧
      t.panel.regs = { s.panel.regs with
        px := if (s.panel.regs.px + 1).toNat ≤ s.panel.regs.wx1.toNat then s.panel.regs.px + 1 else s.panel.regs.wx0
        py := if (s.panel.regs.px + 1).toNat ≤ s.panel.regs.wx1.toNat then s.panel.regs.py
              else if (s.panel.regs.py + 1).toNat ≤ s.panel.regs.wy1.toNat then s.panel.regs.py + 1
              else s.panel.regs.wy0 }

/-- R29, R91: a `WRPIX` whose transfer fails ends in `FAILED` with that transfer last, and the controller has got a
prefix of the two bytes: none, the first only, or both (how many is the reply's, log entry 12). -/
def Obligations.FailedWrpixDeliversAPrefix : Prop :=
  ∀ (color : Half) (reached : Nat) (s : State), s.state = .ready → s.replyAt s.txCount = .fail reached →
    s.panel.regs.mode = .memwrite none →
    ∃ t, exec (.wrpix color) s = .next t ∧
      t.trace = s.trace ++ [.line (.dc .data), .tx [hiByte color, loByte color] .fail, .line (.cs .deselected)] ∧
      t.state = .failed ∧ t.result = .errTransport ∧ t.cp = s.cp + 3 ∧ t.txCount = s.txCount + 1 ∧
      t.lines = { s.lines with dc := .data, cs := .deselected } ∧ PanelFrame s t ∧
      (reached = 0 → t.panel = s.panel) ∧
      (reached = 1 → t.panel = { s.panel with regs := { s.panel.regs with mode := .memwrite (some (hiByte color)) } }) ∧
      (2 ≤ reached → t.panel = Panel.writePixel s.cfg s.panel color)

/-- R114: a pixel sent when the last controller command takes no data the model follows leaves no pixel of the
controller's memory with a value (the model's choice for an unspecified effect, log entries 4 and 9). -/
def Obligations.WrpixUnprimedFixesNothing : Prop :=
  ∀ (color : Half) (b : Byte) (got : List Byte) (s : State), s.state = .ready → s.repliesOk 1 →
    (s.panel.regs.mode = .idle ∨ (s.panel.regs.mode = .param b got ∧ b ≠ 0x2A ∧ b ≠ 0x2B)) →
    ∃ t, exec (.wrpix color) s = .next t ∧ ∀ a, Gram.read t.panel.gram a = none

/-- R56, R70: `FILL`, and `CLEAR` and `FILLSCREEN` with it, send the full panel's window and then exactly 128 * 160
pixels. -/
def Obligations.FillSendsTheWholePanel : Prop :=
  ∀ (c : Half) (i : Instr) (s : State), i = .fill c ∨ i = .clear c ∨ i = .fillscreen c →
    s.state = .ready → s.repliesOk 20485 →
    ∃ t, exec i s = .next t ∧
      t.trace = s.trace ++ windowSent 0 0 127 159 ++
        (List.replicate 20480 (dataSent [hiByte c, loByte c])).flatten ∧
      t.result = .ok ∧ t.state = .ready ∧ t.cp = s.cp + 3 ∧ t.txCount = s.txCount + 20485 ∧
      t.lines = { s.lines with dc := .data } ∧ PanelFrame s t

/-- R70, R41, R42: after `FILL c` every logical pixel is `c`, no other cell of the controller's memory has changed, and
with the default `WRAP` the pointer is back at the window's start. -/
def Obligations.FillPaintsEveryPixel : Prop :=
  ∀ (c : Half) (s : State), s.state = .ready → s.repliesOk 20485 → 130 ≤ s.cfg.gramW → 161 ≤ s.cfg.gramH →
    ∃ t, exec (.fill c) s = .next t ∧
      (∀ x y, x < 128 → y < 160 → t.logicalPixel x y = some c) ∧
      (∀ a, (∀ x y, x < 128 → y < 160 → a ≠ gramAddr s.cfg (x + 2) (y + 1)) →
        Gram.read t.panel.gram a = Gram.read s.panel.gram a) ∧
      (s.cfg.wrap = .toWindowStart → t.panel.regs.px = 2 ∧ t.panel.regs.py = 1)

/-! ## The painter -/

/-- R71: an in-bounds `DRAWPIX` makes six transfers; an out-of-bounds one makes no event at all. -/
def Obligations.DrawpixSendsOnePixelOrNothing : Prop :=
  (∀ (x y c : Half) (s : State), s.state = .ready → x.toNat < 128 → y.toNat < 160 → s.repliesOk 6 →
    ∃ t, exec (.drawpix x y c) s = .next t ∧
      t.trace = s.trace ++ windowSent x y x y ++ dataSent [hiByte c, loByte c] ∧
      t.result = .ok ∧ t.state = .ready ∧ t.cp = s.cp + 7 ∧ t.txCount = s.txCount + 6 ∧
      t.lines = { s.lines with dc := .data } ∧ PanelFrame s t) ∧
  (∀ (x y c : Half) (s : State), s.state = .ready → (128 ≤ x.toNat ∨ 160 ≤ y.toNat) →
    exec (.drawpix x y c) s = .next { s with result := .ok, cp := s.cp + 7 })

/-- R71, R41, R42: an in-bounds `DRAWPIX` sets that logical pixel and leaves every other cell of the controller's
memory as it was. -/
def Obligations.DrawpixPaintsExactlyItsPixel : Prop :=
  ∀ (x y c : Half) (s : State), s.state = .ready → x.toNat < 128 → y.toNat < 160 → s.repliesOk 6 →
    130 ≤ s.cfg.gramW → 161 ≤ s.cfg.gramH →
    ∃ t, exec (.drawpix x y c) s = .next t ∧
      t.logicalPixel x.toNat y.toNat = some c ∧
      ∀ a, a ≠ gramAddr s.cfg (x.toNat + 2) (y.toNat + 1) → Gram.read t.panel.gram a = Gram.read s.panel.gram a

/-- R73, R74: a drawn character makes 48 pixel draws, columns left to right and each top to bottom, then the spacing
column; an invalid code or a cell off the panel makes no event at all. -/
def Obligations.DrawcharSendsTheCellOrNothing : Prop :=
  (∀ (x y : Half) (code : Byte) (fg bg : Half) (s : State), s.state = .ready →
    32 ≤ code.toNat → code.toNat ≤ 126 → x.toNat ≤ 122 → y.toNat ≤ 152 → s.repliesOk 288 →
    ∃ t, exec (.drawchar x y code fg bg) s = .next t ∧
      t.trace = s.trace ++ charSent s.cfg x y code fg bg ∧
      t.result = .ok ∧ t.state = .ready ∧ t.cp = s.cp + 10 ∧ t.txCount = s.txCount + 288 ∧
      t.lines = { s.lines with dc := .data } ∧ PanelFrame s t) ∧
  (∀ (x y : Half) (code : Byte) (fg bg : Half) (s : State), s.state = .ready →
    (code.toNat < 32 ∨ 126 < code.toNat ∨ 122 < x.toNat ∨ 152 < y.toNat) →
    exec (.drawchar x y code fg bg) s = .next { s with result := .ok, cp := s.cp + 10 })

/-- R37, R41, R42, R73: after a drawn `DRAWCHAR` the six by eight cell shows the glyph, foreground where the bit of its
column byte is set, with a background spacing column, and no other cell of the controller's memory has changed. -/
def Obligations.DrawcharPaintsTheGlyph : Prop :=
  ∀ (x y : Half) (code : Byte) (fg bg : Half) (s : State), s.state = .ready →
    32 ≤ code.toNat → code.toNat ≤ 126 → x.toNat ≤ 122 → y.toNat ≤ 152 → s.repliesOk 288 →
    130 ≤ s.cfg.gramW → 161 ≤ s.cfg.gramH →
    ∃ t, exec (.drawchar x y code fg bg) s = .next t ∧
      (∀ dx dy, dx < 6 → dy < 8 → t.logicalPixel (x.toNat + dx) (y.toNat + dy) =
        some (if dx < 5 ∧ (s.cfg.glyph.getD (5 * code.toNat + dx) 0).getLsbD dy = true then fg else bg)) ∧
      (∀ a, (∀ dx dy, dx < 6 → dy < 8 → a ≠ gramAddr s.cfg (x.toNat + dx + 2) (y.toNat + dy + 1)) →
        Gram.read t.panel.gram a = Gram.read s.panel.gram a)

/-- R75: `DRAWSTR` draws character `k` at `x + 6k` as long as that is at most 122, skips the characters `DRAWCHAR`
would not draw, and draws nothing past the right margin. -/
def Obligations.DrawstrSendsItsVisibleCharacters : Prop :=
  ∀ (x y fg bg : Half) (text : List Byte) (s : State) (evs : List Event), s.state = .ready →
    evs = text.zipIdx.flatMap (fun p =>
      if x.toNat + 6 * p.2 ≤ 122 ∧ 32 ≤ p.1.toNat ∧ p.1.toNat ≤ 126 ∧ y.toNat ≤ 152 then
        charSent s.cfg (x + BitVec.ofNat 16 (6 * p.2)) y p.1 fg bg
      else []) →
    s.repliesOk (transportWrites evs) →
    ∃ t, exec (.drawstr x y fg bg text) s = .next t ∧
      t.trace = s.trace ++ evs ∧ t.result = .ok ∧ t.state = .ready ∧ t.cp = s.cp + (10 + text.length) ∧
      t.txCount = s.txCount + transportWrites evs ∧
      t.lines = { s.lines with dc := if evs = [] then s.lines.dc else .data } ∧
      (evs = [] → t.panel = s.panel) ∧ PanelFrame s t

/-- R41, R75: a string changes no cell of the controller's memory outside the cells of the characters it draws. -/
def Obligations.DrawstrPaintsOnlyItsCells : Prop :=
  ∀ (x y fg bg : Half) (text : List Byte) (s : State), s.state = .ready →
    s.repliesOk (288 * text.length) → 130 ≤ s.cfg.gramW → 161 ≤ s.cfg.gramH →
    ∃ t, exec (.drawstr x y fg bg text) s = .next t ∧
      ∀ a, (∀ k code dx dy, text[k]? = some code → x.toNat + 6 * k ≤ 122 → 32 ≤ code.toNat → code.toNat ≤ 126 →
          y.toNat ≤ 152 → dx < 6 → dy < 8 →
          a ≠ gramAddr s.cfg (x.toNat + 6 * k + dx + 2) (y.toNat + dy + 1)) →
        Gram.read t.panel.gram a = Gram.read s.panel.gram a

/-! ## The animation -/

/-- R78: the ramp's entry below its length, the background from its length on. -/
def Obligations.RampColourIsBackgroundPastTheRamp : Prop :=
  ∀ (cfg : Config) (i : Nat),
    (∀ h : i < cfg.ramp.length, rampColour cfg i = cfg.ramp[i]) ∧ (cfg.ramp.length ≤ i → rampColour cfg i = 0x0000)

/-- R79: `COLINIT n`, in every `STATE`: four draws for each of the first `n` columns, in the order head, tail, speed,
frame counter, each within its range; `NCOLS` is `n`; nothing else changes. -/
def Obligations.ColinitDrawsTheColumns : Prop :=
  ∀ (n : Byte) (s : State), n.toNat ≤ 21 →
    ∃ t, exec (.colinit n) s = .next t ∧
      t.result = .ok ∧ t.ncols = n ∧ t.cp = s.cp + 2 ∧ t.drawCount = s.drawCount + 4 * n.toNat ∧
      (∀ c : Fin 21, c.val < n.toNat →
        t.col c =
          { head := BitVec.ofNat 16 (pick (rangeList 0 19) (s.offerAt (s.drawCount + 4 * c.val)))
            tail := BitVec.ofNat 8 (pick (rangeList 4 13) (s.offerAt (s.drawCount + 4 * c.val + 1)))
            speed := BitVec.ofNat 8 (pick (rangeList 1 3) (s.offerAt (s.drawCount + 4 * c.val + 2)))
            fc := BitVec.ofNat 16 (pick (rangeList 0 9) (s.offerAt (s.drawCount + 4 * c.val + 3))) } ∧
        columnLegal (t.col c) ∧ (t.col c).head.toInt ≤ 19) ∧
      (∀ c : Fin 21, n.toNat ≤ c.val → t.col c = s.col c) ∧
      t.trace = s.trace ++ (List.range n.toNat).flatMap (fun k =>
        [.draw (rangeList 0 19) (pick (rangeList 0 19) (s.offerAt (s.drawCount + 4 * k))),
         .draw (rangeList 4 13) (pick (rangeList 4 13) (s.offerAt (s.drawCount + 4 * k + 1))),
         .draw (rangeList 1 3) (pick (rangeList 1 3) (s.offerAt (s.drawCount + 4 * k + 2))),
         .draw (rangeList 0 9) (pick (rangeList 0 9) (s.offerAt (s.drawCount + 4 * k + 3)))]) ∧
      t.state = s.state ∧ t.stopped = s.stopped ∧ t.lines = s.lines ∧ t.stream = s.stream ∧ t.panel = s.panel ∧
      t.txCount = s.txCount ∧ t.env = s.env ∧ t.cfg = s.cfg

/-- R80, R81, R82: `TICK` in `READY` with every transfer answered `OK`: a column whose counter stays above zero only
counts down; every other active column has its counter reset to its speed and its head moved one row on, or, when its
tail has left the bottom, respawns with the tail in [4, 13] and the speed in [1, 3] that its two draws give and the
counter at its old speed; no other column changes. The due columns' events and draws are made in index order. -/
def Obligations.TickAdvancesExactlyTheDueColumns : Prop :=
  ∀ s : State, s.state = .ready → s.repliesOk (288 * tickCells s) →
    ∃ t, exec .tick s = .next t ∧
      t.result = .ok ∧ t.state = .ready ∧ t.cp = s.cp + 1 ∧
      t.lines.rst = s.lines.rst ∧ t.lines.cs = s.lines.cs ∧
      t.drawCount = s.drawCount + ((firstCols s.ncols).map fun c => columnDraws (s.col c)).sum ∧
      (s.cfg.legal = true → t.trace = s.trace ++ tickSent s ∧ t.txCount = s.txCount + 288 * tickCells s ∧
        t.lines.dc = if tickCells s = 0 then s.lines.dc else .data) ∧
      t.stopped = s.stopped ∧ t.ncols = s.ncols ∧ t.stream = s.stream ∧ t.env = s.env ∧ t.cfg = s.cfg ∧
      (∀ c : Fin 21, s.ncols.toNat ≤ c.val → t.col c = s.col c) ∧
      (∀ c : Fin 21, c.val < s.ncols.toNat → ColumnTicked s t c)

/-- R80: a tick on which no active column is due makes no event and no draw. -/
def Obligations.TickWithNoDueColumnIsSilent : Prop :=
  ∀ s : State, s.state = .ready → (∀ c : Fin 21, c.val < s.ncols.toNat → ¬ columnDue (s.col c)) →
    ∃ t, exec .tick s = .next t ∧
      t.trace = s.trace ∧ t.lines = s.lines ∧ t.panel = s.panel ∧ t.txCount = s.txCount ∧ t.drawCount = s.drawCount ∧
      t.result = .ok ∧ ∀ c : Fin 21, (t.col c).head = (s.col c).head

/-- R77, R78, R81, R82: an advance repaints the visible tail from its far end to the head, a fresh draw from the
alphabet for each painted cell and none for a skipped row, in the ramp's colour on the background; a respawn adds the
draws of the new tail and speed and nothing else. -/
def Obligations.AdvanceRepaintsTheVisibleTail : Prop :=
  ∀ (c : Fin 21) (s : State), s.cfg.legal = true → s.repliesOk (288 * columnCells (s.col c)) →
    ∃ t, advance c s = .ok t ∧
      t.txCount = s.txCount + 288 * columnCells (s.col c) ∧
      t.trace = s.trace ++ advanceSent s s.drawCount c

/-- R41, R77, R81: a tick changes no cell of the controller's memory outside the cells of the visible tails of the
columns that are due. -/
def Obligations.TickPaintsOnlyItsCells : Prop :=
  ∀ s : State, s.state = .ready → s.repliesOk (288 * tickCells s) → 130 ≤ s.cfg.gramW → 161 ≤ s.cfg.gramH →
    ∃ t, exec .tick s = .next t ∧
      ∀ a, (∀ (c : Fin 21) (i dx dy : Nat), c.val < s.ncols.toNat → columnDue (s.col c) → i ≤ (s.col c).tail.toNat →
          0 ≤ ((s.col c).head - BitVec.ofNat 16 i).toInt → ((s.col c).head - BitVec.ofNat 16 i).toInt < 20 →
          dx < 6 → dy < 8 →
          a ≠ gramAddr s.cfg (6 * c.val + dx + 2) (8 * ((s.col c).head - BitVec.ofNat 16 i).toNat + dy + 1)) →
        Gram.read t.panel.gram a = Gram.read s.panel.gram a

/-- R83: when a transfer fails inside `TICK`, the columns before the one being painted have had their whole tick
(counting down, moving on, or respawning with what their draws gave), that one has had its counter reset and nothing
else of it changed, and the columns after it are untouched. -/
def Obligations.TickFailureKeepsEarlierColumns : Prop :=
  ∀ s t : State, s.state = .ready → exec .tick s = .next t → t.result = .errTransport →
    ∃ k : Fin 21, k.val < s.ncols.toNat ∧ columnDue (s.col k) ∧
      t.col k = { s.col k with fc := zext16 (s.col k).speed } ∧
      (∀ c : Fin 21, k < c → t.col c = s.col c) ∧
      (∀ c : Fin 21, c < k → ColumnTicked s t c)

/-- R21: `NCOLS` stays in [0, 21] from states where it is, only `COLINIT` writes it, and `TICK` neither writes nor
reads a column beyond it. -/
def Obligations.InactiveColumnsAreNeverTouched : Prop :=
  (∀ s t : State, s.ncols.toNat ≤ 21 → step s = .next t → t.ncols.toNat ≤ 21) ∧
  (∀ (i : Instr) (s t : State), (∀ n, i ≠ .colinit n) → exec i s = .next t → t.ncols = s.ncols) ∧
  (∀ (s : State) (c : Fin 21) (v : Column), s.ncols.toNat ≤ c.val →
    ∃ t, exec .tick s = .next t ∧ t.col c = s.col c ∧ exec .tick (s.setCol c v) = .next (t.setCol c v))

/-- R86, R87: from a legal state with every transfer answered `OK`, an active column first advances on the
`max(fc, 1)`-th tick and then every `speed` ticks, and respawns on tick `max(fc, 1) + (20 + tail - head) * speed`, at
most the 108th (the 102nd where `fc` is an old speed, as a respawn leaves it), and on none before it. -/
def Obligations.ColumnRespawnsOnItsTick : Prop :=
  ∀ (s : State) (c : Fin 21) (h0 T sp f0 N : Nat), s.state = .ready → columnsLegal s → c.val < s.ncols.toNat →
    h0 = (s.col c).head.toNat → T = (s.col c).tail.toNat → sp = (s.col c).speed.toNat → f0 = (s.col c).fc.toNat →
    N = max f0 1 + (20 + T - h0) * sp → s.repliesOk (N * (21 * 14 * 288)) →
    N ≤ 108 ∧ (f0 ≤ 3 → N ≤ 102) ∧
    (∀ m, m < N → ∃ u, ticks m s = .next u ∧
      (u.col c).head.toNat = h0 + (if m < max f0 1 then 0 else 1 + (m - max f0 1) / sp) ∧
      (u.col c).tail.toNat = T ∧ (u.col c).speed.toNat = sp) ∧
    ∃ t, ticks N s = .next t ∧ (t.col c).head = 0 ∧ (t.col c).fc.toNat = sp ∧
      4 ≤ (t.col c).tail.toNat ∧ (t.col c).tail.toNat ≤ 13 ∧ 1 ≤ (t.col c).speed.toNat ∧ (t.col c).speed.toNat ≤ 3

/-! ## The controller commands -/

/-- R57, R58: each command of `INIT_TABLE`, emitted on its own: its byte, its entry's payload, its entry's wait; what
the controller then holds follows R39 and R40, and the model's choices for a command's "effects outside this model"
(log entry 29) and for a payload the model does not follow (log entry 9). -/
def Obligations.InitCommandsSendTheirTableEntry : Prop :=
  ∀ (i : Instr) (c : PanelCmd) (s : State) (st : InitStep),
    (i, c) ∈ [(Instr.swreset, PanelCmd.swreset), (.slpout, .slpout), (.frmctr1, .frmctr1), (.frmctr2, .frmctr2),
      (.frmctr3, .frmctr3), (.pwctr1, .pwctr1), (.pwctr2, .pwctr2), (.pwctr3, .pwctr3), (.pwctr4, .pwctr4),
      (.pwctr5, .pwctr5), (.vmctr1, .vmctr1), (.colmod, .colmod), (.madctl, .madctl), (.gmctrp1, .gmctrp1),
      (.gmctrn1, .gmctrn1), (.dispon, .dispon)] →
    s.cfg.initTable.find? (fun st => st.cmd = c) = some st → s.repliesOk (initStepTransfers st) →
    ∃ t, exec i s = .next t ∧
      t.trace = s.trace ++ cmdSent (cmdByte c) ++ (if st.payload = [] then [] else dataSent st.payload) ++
        (if st.delay = 0 then [] else [.delay st.delay]) ∧
      t.txCount = s.txCount + initStepTransfers st ∧
      t.state = s.state ∧ t.result = s.result ∧ t.cp = s.cp ∧
      t.lines = { s.lines with dc := if st.payload = [] then .command else .data } ∧ PanelFrame s t ∧
      (st.payload = [] → c ≠ .swreset →
        t.panel = { s.panel with regs := { s.panel.regs with mode := .param (cmdByte c) [] } }) ∧
      ((st.payload = [] ↔ c = .swreset) → t.panel.gram = [])

/-- R40, R57, R64: `CASET`, `RASET` and `RAMWR`, emitted on their own: their bytes, and the controller's window columns,
window rows and write pointer. -/
def Obligations.WindowCommandsReachTheController : Prop :=
  (∀ (first last : Half) (s : State), s.repliesOk 2 →
    ∃ t, exec (.caset first last) s = .next t ∧
      t.trace = s.trace ++ cmdSent 0x2A ++ dataSent [hiByte first, loByte first, hiByte last, loByte last] ∧
      t.panel = { s.panel with regs := { s.panel.regs with wx0 := first, wx1 := last, mode := .idle } } ∧
      t.state = s.state ∧ t.result = s.result ∧ t.cp = s.cp ∧ t.txCount = s.txCount + 2 ∧
      t.lines = { s.lines with dc := .data } ∧ PanelFrame s t) ∧
  (∀ (first last : Half) (s : State), s.repliesOk 2 →
    ∃ t, exec (.raset first last) s = .next t ∧
      t.trace = s.trace ++ cmdSent 0x2B ++ dataSent [hiByte first, loByte first, hiByte last, loByte last] ∧
      t.panel = { s.panel with regs := { s.panel.regs with wy0 := first, wy1 := last, mode := .idle } } ∧
      t.state = s.state ∧ t.result = s.result ∧ t.cp = s.cp ∧ t.txCount = s.txCount + 2 ∧
      t.lines = { s.lines with dc := .data } ∧ PanelFrame s t) ∧
  (∀ s : State, s.repliesOk 1 →
    ∃ t, exec .ramwr s = .next t ∧
      t.trace = s.trace ++ cmdSent 0x2C ∧
      t.panel.regs = { s.panel.regs with px := s.panel.regs.wx0, py := s.panel.regs.wy0, mode := .memwrite none } ∧
      (Panel.windowLegal s.panel.regs = true → t.panel.gram = s.panel.gram) ∧
      t.state = s.state ∧ t.result = s.result ∧ t.cp = s.cp ∧ t.txCount = s.txCount + 1 ∧
      t.lines = { s.lines with dc := .command } ∧ PanelFrame s t)

/-! ## Rules of the whole machine -/

/-- R57: every transfer a host command makes with the data/command line in the command state is one byte, one of the
sixteen init commands in `INIT` and `CASET`, `RASET` or `RAMWR` in every other command. -/
def Obligations.OnlyTheListedCommandBytesAreEmitted : Prop :=
  ∀ (i : Instr) (s t : State), i.isHostCommand = true → s.cfg.legal = true → exec i s = .next t →
    ∃ evs, t.trace = s.trace ++ evs ∧
      ∀ bs ∈ commandTransfers s.lines.dc evs,
        (i = .init → bs ∈ [[(0x01 : Byte)], [0x11], [0xB1], [0xB2], [0xB3], [0xC0], [0xC1], [0xC2], [0xC3], [0xC4],
          [0xC5], [0x3A], [0x36], [0xE0], [0xE1], [0x29]]) ∧
        (i ≠ .init → bs ∈ [[(0x2A : Byte)], [0x2B], [0x2C]])

/-- R28, R104: every draw of the trace is an element of the list it was asked for. -/
def Obligations.EveryDrawIsFromItsList : Prop :=
  ∀ (i : Instr) (s t : State), s.cfg.legal = true → exec i s = .next t →
    ∃ evs, t.trace = s.trace ++ evs ∧ ∀ l v, .draw l v ∈ evs → v ∈ l

/-- R38, R44, R47: no instruction changes the glyph table or any other parameter, the supplied command stream or what
is already in the trace. -/
def Obligations.StreamTableAndTraceAreKept : Prop :=
  ∀ (i : Instr) (s t : State), exec i s = .next t →
    t.cfg = s.cfg ∧ t.stream = s.stream ∧ t.env = s.env ∧ ∃ evs, t.trace = s.trace ++ evs

/-- R27: no command reads anything back from the controller: whatever the controller holds, the block does the same. -/
def Obligations.TheControllerIsNeverReadBack : Prop :=
  ∀ (i : Instr) (s t : State) (p : Panel), exec i s = .next t →
    ∃ q : Panel, exec i { s with panel := p } = .next { t with panel := q }

/-- R47: bytes the host appends change nothing of a step that could already be taken, and stay to be read. -/
def Obligations.HostAppendsDoNotDisturbAStep : Prop :=
  ∀ (s t : State) (bs : List Byte), step s = .next t → step (s.supply bs) = .next (t.supply bs)

/-- R14: the transitions of `STATE` a step can make: `UNINIT` to `READY` or `FAILED` in `INIT`, `READY` to `FAILED` by a
transport failure, and no other. -/
def Obligations.LifecycleHasNoOtherTransition : Prop :=
  ∀ s t : State, step s = .next t → t.state ≠ s.state →
    (s.state = .uninit ∧ t.state = .ready ∧ t.result = .ok) ∨
    (s.state = .uninit ∧ t.state = .failed ∧ t.result = .errTransport) ∨
    (s.state = .ready ∧ t.state = .failed ∧ t.result = .errTransport)

/-- R17: while stopped no command executes; a step sets `STOPPED` exactly when the byte at `CP` is an unassigned opcode;
only block reset clears it. -/
def Obligations.OnlyAReservedOpcodeSetsStopped : Prop :=
  (∀ s : State, s.stopped = true → step s = .fault .halted) ∧
  (∀ s t : State, step s = .next t →
    (t.stopped = true ↔ ∃ op, s.stream[s.cp]? = some op ∧ (op.toNat = 0 ∨ 0x0A ≤ op.toNat))) ∧
  (∀ (i : Instr) (s t : State), s.stopped = true → exec i s = .next t → t.stopped = true) ∧
  (∀ s : State, s.blockReset.stopped = false)

/-- The invariant holds at reset. -/
def Obligations.ResetSatisfiesTheInvariants : Prop := Inv State.reset

/-- R85: every active column keeps legal values through every step, and on legal values no s16 operation of the
animation overflows. -/
def Obligations.EveryStepKeepsColumnsLegal : Prop :=
  (∀ s t : State, columnsLegal s → step s = .next t → columnsLegal t) ∧
  (∀ c : Column, columnLegal c →
    (∀ i, i ≤ c.tail.toNat →
      (c.head - BitVec.ofNat 16 i).toInt = c.head.toInt - i ∧ -13 ≤ c.head.toInt - i ∧ c.head.toInt - i ≤ 33) ∧
    (c.head + 1).toInt = c.head.toInt + 1 ∧ c.head.toInt + 1 ≤ 34 ∧
    (c.fc - 1).toInt = c.fc.toInt - 1 ∧
    (c.head + 1 - zext16 c.tail).toInt = c.head.toInt + 1 - c.tail.toNat)

/-- R13, R15, R17, R18, R19: between two commands `INITIALIZING` is never the value of `STATE`, the reset line is
released, the controller is selected exactly in `READY`, and a stopped block shows `ERR_ILLEGAL`. -/
def Obligations.EveryStepKeepsTheLifecycleLegal : Prop :=
  ∀ s t : State, lifecycleLegal s → step s = .next t → lifecycleLegal t

/-- R39, R40, R41: every step keeps the controller's memory within its bounds and, in the model's own representation
(log entry 4), in its canonical form, and fewer than four window parameter bytes pending (by R40, and for a mode the
spec leaves open by the model's cut, log entry 7). -/
def Obligations.EveryStepKeepsThePanelLegal : Prop :=
  ∀ s t : State, panelLegal s → step s = .next t → panelLegal t
end

