-- ==== Sys2Proof/Laws/Loop.lean ====
section
/-! SUPPORT. Rules put together: `andThen`, `forEach` and `settle`, and the invariants a loop keeps. -/

namespace Sys2Proof.Machine

namespace Run

@[simp] theorem ok_andThen (s : State) (f : State → Run) : (Run.ok s).andThen f = f s := rfl
@[simp] theorem raised_andThen (e : Error) (s : State) (f : State → Run) :
    (Run.raised e s).andThen f = .raised e s := rfl
@[simp] theorem state_ok (s : State) : (Run.ok s).state = s := rfl
@[simp] theorem state_raised (e : Error) (s : State) : (Run.raised e s).state = s := rfl

theorem andThen_assoc (r : Run) (f g : State → Run) :
    (r.andThen f).andThen g = r.andThen fun s => (f s).andThen g := by
  cases r <;> rfl

/-- What holds of the state of the first part, and is kept by the second, holds at the end. -/
theorem andThen_state {P : State → Prop} {r : Run} {f : State → Run} (hr : P r.state)
    (hf : ∀ s, P s → P (f s).state) : P (r.andThen f).state := by
  cases r with
  | ok s => exact hf s hr
  | raised e s => exact hr

theorem andThen_eq_ok {r : Run} {f : State → Run} {t : State} :
    r.andThen f = .ok t ↔ ∃ s, r = .ok s ∧ f s = .ok t := by
  cases r <;> simp

end Run

@[simp] theorem settle_ok (s : State) : settle (.ok s) = s := rfl
@[simp] theorem settle_raised (e : Error) (s : State) : settle (.raised e s) = errorAction e s := rfl

section Loop

variable {α : Type} {body : α → State → Run}

@[simp] theorem forEach_nil (s : State) : forEach body [] s = .ok s := rfl

theorem forEach_cons (a : α) (l : List α) (s : State) :
    forEach body (a :: l) s = (body a s).andThen (forEach body l) := rfl

theorem forEach_append (l m : List α) (s : State) :
    forEach body (l ++ m) s = (forEach body l s).andThen (forEach body m) := by
  induction l generalizing s with
  | nil => rfl
  | cons a l ih =>
    simp only [List.cons_append, forEach_cons, Run.andThen_assoc]
    congr
    funext t
    exact ih t

/-- What every round keeps, the loop keeps, however it ends. -/
theorem forEach_keeps {P : State → Prop} {l : List α} (h : ∀ a ∈ l, ∀ s, P s → P (body a s).state) {s : State}
    (hs : P s) : P (forEach body l s).state := by
  induction l generalizing s with
  | nil => exact hs
  | cons a l ih =>
    rw [forEach_cons]
    exact Run.andThen_state (h a List.mem_cons_self s hs) fun t ht => ih (fun b hb => h b (List.mem_cons_of_mem _ hb)) ht

end Loop

/-! ## The command cycle's part of a host command -/

theorem needReady_ready {body : State → Run} {s : State} (h : s.state = .ready) : needReady body s = body s := by
  simp [needReady, h]

theorem needReady_other {body : State → Run} {s : State} (h : s.state ≠ .ready) :
    needReady body s = .raised .stateError s := by
  simp [needReady, h]

/-- A host command whose rule runs to its end (R48). -/
theorem hostCommand_of_ok {len : Nat} {body : State → Run} {s t : State} (h : body { s with result := .ok } = .ok t) :
    hostCommand len body s = { t with cp := t.cp + len } := by
  simp [hostCommand, h]

/-- A host command whose rule raises an error (R48, R90): the action, and `CP` advances all the same. -/
theorem hostCommand_of_raised {len : Nat} {body : State → Run} {s t : State} {e : Error}
    (h : body { s with result := .ok } = .raised e t) :
    hostCommand len body s = { errorAction e t with cp := (errorAction e t).cp + len } := by
  simp [hostCommand, h]

end Sys2Proof.Machine
end

