-- ==== Sys2Proof/Laws/State.lean ====
section
/-! SUPPORT. What each update of the state does to each field, and what the accessors read after it. -/

namespace Sys2Proof.Machine.State

/-! ## `emit` -/

@[simp] theorem emit_state (e : Event) (s : State) : (s.emit e).state = s.state := rfl
@[simp] theorem emit_result (e : Event) (s : State) : (s.emit e).result = s.result := rfl
@[simp] theorem emit_stopped (e : Event) (s : State) : (s.emit e).stopped = s.stopped := rfl
@[simp] theorem emit_lines (e : Event) (s : State) : (s.emit e).lines = s.lines := rfl
@[simp] theorem emit_cp (e : Event) (s : State) : (s.emit e).cp = s.cp := rfl
@[simp] theorem emit_ncols (e : Event) (s : State) : (s.emit e).ncols = s.ncols := rfl
@[simp] theorem emit_cols (e : Event) (s : State) : (s.emit e).cols = s.cols := rfl
@[simp] theorem emit_stream (e : Event) (s : State) : (s.emit e).stream = s.stream := rfl
@[simp] theorem emit_log (e : Event) (s : State) : (s.emit e).log = e :: s.log := rfl
@[simp] theorem emit_txCount (e : Event) (s : State) : (s.emit e).txCount = s.txCount := rfl
@[simp] theorem emit_drawCount (e : Event) (s : State) : (s.emit e).drawCount = s.drawCount := rfl
@[simp] theorem emit_panel (e : Event) (s : State) : (s.emit e).panel = s.panel := rfl
@[simp] theorem emit_env (e : Event) (s : State) : (s.emit e).env = s.env := rfl
@[simp] theorem emit_cfg (e : Event) (s : State) : (s.emit e).cfg = s.cfg := rfl

/-! ## `setLine` -/

@[simp] theorem setLine_state (w : LineWrite) (s : State) : (s.setLine w).state = s.state := rfl
@[simp] theorem setLine_result (w : LineWrite) (s : State) : (s.setLine w).result = s.result := rfl
@[simp] theorem setLine_stopped (w : LineWrite) (s : State) : (s.setLine w).stopped = s.stopped := rfl
@[simp] theorem setLine_lines (w : LineWrite) (s : State) : (s.setLine w).lines = s.lines.set w := rfl
@[simp] theorem setLine_cp (w : LineWrite) (s : State) : (s.setLine w).cp = s.cp := rfl
@[simp] theorem setLine_ncols (w : LineWrite) (s : State) : (s.setLine w).ncols = s.ncols := rfl
@[simp] theorem setLine_cols (w : LineWrite) (s : State) : (s.setLine w).cols = s.cols := rfl
@[simp] theorem setLine_stream (w : LineWrite) (s : State) : (s.setLine w).stream = s.stream := rfl
@[simp] theorem setLine_log (w : LineWrite) (s : State) : (s.setLine w).log = .line w :: s.log := rfl
@[simp] theorem setLine_txCount (w : LineWrite) (s : State) : (s.setLine w).txCount = s.txCount := rfl
@[simp] theorem setLine_drawCount (w : LineWrite) (s : State) : (s.setLine w).drawCount = s.drawCount := rfl
@[simp] theorem setLine_panel (w : LineWrite) (s : State) : (s.setLine w).panel = s.panel.onLine w := rfl
@[simp] theorem setLine_env (w : LineWrite) (s : State) : (s.setLine w).env = s.env := rfl
@[simp] theorem setLine_cfg (w : LineWrite) (s : State) : (s.setLine w).cfg = s.cfg := rfl

/-! ## `txOk` and `txFail` -/

@[simp] theorem txOk_state (bs : List Byte) (s : State) : (s.txOk bs).state = s.state := rfl
@[simp] theorem txOk_result (bs : List Byte) (s : State) : (s.txOk bs).result = s.result := rfl
@[simp] theorem txOk_stopped (bs : List Byte) (s : State) : (s.txOk bs).stopped = s.stopped := rfl
@[simp] theorem txOk_lines (bs : List Byte) (s : State) : (s.txOk bs).lines = s.lines := rfl
@[simp] theorem txOk_cp (bs : List Byte) (s : State) : (s.txOk bs).cp = s.cp := rfl
@[simp] theorem txOk_ncols (bs : List Byte) (s : State) : (s.txOk bs).ncols = s.ncols := rfl
@[simp] theorem txOk_cols (bs : List Byte) (s : State) : (s.txOk bs).cols = s.cols := rfl
@[simp] theorem txOk_stream (bs : List Byte) (s : State) : (s.txOk bs).stream = s.stream := rfl
@[simp] theorem txOk_log (bs : List Byte) (s : State) : (s.txOk bs).log = .tx bs .ok :: s.log := rfl
@[simp] theorem txOk_txCount (bs : List Byte) (s : State) : (s.txOk bs).txCount = s.txCount + 1 := rfl
@[simp] theorem txOk_drawCount (bs : List Byte) (s : State) : (s.txOk bs).drawCount = s.drawCount := rfl
@[simp] theorem txOk_panel (bs : List Byte) (s : State) : (s.txOk bs).panel = s.panel.receive s.cfg s.lines.dc bs := rfl
@[simp] theorem txOk_env (bs : List Byte) (s : State) : (s.txOk bs).env = s.env := rfl
@[simp] theorem txOk_cfg (bs : List Byte) (s : State) : (s.txOk bs).cfg = s.cfg := rfl

@[simp] theorem txFail_state (bs : List Byte) (n : Nat) (s : State) : (s.txFail bs n).state = s.state := rfl
@[simp] theorem txFail_result (bs : List Byte) (n : Nat) (s : State) : (s.txFail bs n).result = s.result := rfl
@[simp] theorem txFail_stopped (bs : List Byte) (n : Nat) (s : State) : (s.txFail bs n).stopped = s.stopped := rfl
@[simp] theorem txFail_lines (bs : List Byte) (n : Nat) (s : State) : (s.txFail bs n).lines = s.lines := rfl
@[simp] theorem txFail_cp (bs : List Byte) (n : Nat) (s : State) : (s.txFail bs n).cp = s.cp := rfl
@[simp] theorem txFail_ncols (bs : List Byte) (n : Nat) (s : State) : (s.txFail bs n).ncols = s.ncols := rfl
@[simp] theorem txFail_cols (bs : List Byte) (n : Nat) (s : State) : (s.txFail bs n).cols = s.cols := rfl
@[simp] theorem txFail_stream (bs : List Byte) (n : Nat) (s : State) : (s.txFail bs n).stream = s.stream := rfl
@[simp] theorem txFail_log (bs : List Byte) (n : Nat) (s : State) : (s.txFail bs n).log = .tx bs .fail :: s.log := rfl
@[simp] theorem txFail_txCount (bs : List Byte) (n : Nat) (s : State) : (s.txFail bs n).txCount = s.txCount + 1 := rfl
@[simp] theorem txFail_drawCount (bs : List Byte) (n : Nat) (s : State) : (s.txFail bs n).drawCount = s.drawCount := rfl
@[simp] theorem txFail_panel (bs : List Byte) (n : Nat) (s : State) : (s.txFail bs n).panel = s.panel.receive s.cfg s.lines.dc (bs.take n) := rfl
@[simp] theorem txFail_env (bs : List Byte) (n : Nat) (s : State) : (s.txFail bs n).env = s.env := rfl
@[simp] theorem txFail_cfg (bs : List Byte) (n : Nat) (s : State) : (s.txFail bs n).cfg = s.cfg := rfl

/-! ## `afterDraw` -/

@[simp] theorem afterDraw_state (l : List Nat) (s : State) : (s.afterDraw l).state = s.state := rfl
@[simp] theorem afterDraw_result (l : List Nat) (s : State) : (s.afterDraw l).result = s.result := rfl
@[simp] theorem afterDraw_stopped (l : List Nat) (s : State) : (s.afterDraw l).stopped = s.stopped := rfl
@[simp] theorem afterDraw_lines (l : List Nat) (s : State) : (s.afterDraw l).lines = s.lines := rfl
@[simp] theorem afterDraw_cp (l : List Nat) (s : State) : (s.afterDraw l).cp = s.cp := rfl
@[simp] theorem afterDraw_ncols (l : List Nat) (s : State) : (s.afterDraw l).ncols = s.ncols := rfl
@[simp] theorem afterDraw_cols (l : List Nat) (s : State) : (s.afterDraw l).cols = s.cols := rfl
@[simp] theorem afterDraw_stream (l : List Nat) (s : State) : (s.afterDraw l).stream = s.stream := rfl
@[simp] theorem afterDraw_log (l : List Nat) (s : State) : (s.afterDraw l).log = .draw l (s.nextDraw l) :: s.log := rfl
@[simp] theorem afterDraw_txCount (l : List Nat) (s : State) : (s.afterDraw l).txCount = s.txCount := rfl
@[simp] theorem afterDraw_drawCount (l : List Nat) (s : State) : (s.afterDraw l).drawCount = s.drawCount + 1 := rfl
@[simp] theorem afterDraw_panel (l : List Nat) (s : State) : (s.afterDraw l).panel = s.panel := rfl
@[simp] theorem afterDraw_env (l : List Nat) (s : State) : (s.afterDraw l).env = s.env := rfl
@[simp] theorem afterDraw_cfg (l : List Nat) (s : State) : (s.afterDraw l).cfg = s.cfg := rfl

/-! ## `setCol` -/

@[simp] theorem setCol_state (i : Fin 21) (c : Column) (s : State) : (s.setCol i c).state = s.state := rfl
@[simp] theorem setCol_result (i : Fin 21) (c : Column) (s : State) : (s.setCol i c).result = s.result := rfl
@[simp] theorem setCol_stopped (i : Fin 21) (c : Column) (s : State) : (s.setCol i c).stopped = s.stopped := rfl
@[simp] theorem setCol_lines (i : Fin 21) (c : Column) (s : State) : (s.setCol i c).lines = s.lines := rfl
@[simp] theorem setCol_cp (i : Fin 21) (c : Column) (s : State) : (s.setCol i c).cp = s.cp := rfl
@[simp] theorem setCol_ncols (i : Fin 21) (c : Column) (s : State) : (s.setCol i c).ncols = s.ncols := rfl
@[simp] theorem setCol_cols (i : Fin 21) (c : Column) (s : State) : (s.setCol i c).cols = s.cols.set i c := rfl
@[simp] theorem setCol_stream (i : Fin 21) (c : Column) (s : State) : (s.setCol i c).stream = s.stream := rfl
@[simp] theorem setCol_log (i : Fin 21) (c : Column) (s : State) : (s.setCol i c).log = s.log := rfl
@[simp] theorem setCol_txCount (i : Fin 21) (c : Column) (s : State) : (s.setCol i c).txCount = s.txCount := rfl
@[simp] theorem setCol_drawCount (i : Fin 21) (c : Column) (s : State) : (s.setCol i c).drawCount = s.drawCount := rfl
@[simp] theorem setCol_panel (i : Fin 21) (c : Column) (s : State) : (s.setCol i c).panel = s.panel := rfl
@[simp] theorem setCol_env (i : Fin 21) (c : Column) (s : State) : (s.setCol i c).env = s.env := rfl
@[simp] theorem setCol_cfg (i : Fin 21) (c : Column) (s : State) : (s.setCol i c).cfg = s.cfg := rfl

/-! ## `supply` and `blockReset` -/

@[simp] theorem supply_state (bs : List Byte) (s : State) : (s.supply bs).state = s.state := rfl
@[simp] theorem supply_result (bs : List Byte) (s : State) : (s.supply bs).result = s.result := rfl
@[simp] theorem supply_stopped (bs : List Byte) (s : State) : (s.supply bs).stopped = s.stopped := rfl
@[simp] theorem supply_lines (bs : List Byte) (s : State) : (s.supply bs).lines = s.lines := rfl
@[simp] theorem supply_cp (bs : List Byte) (s : State) : (s.supply bs).cp = s.cp := rfl
@[simp] theorem supply_ncols (bs : List Byte) (s : State) : (s.supply bs).ncols = s.ncols := rfl
@[simp] theorem supply_cols (bs : List Byte) (s : State) : (s.supply bs).cols = s.cols := rfl
@[simp] theorem supply_stream (bs : List Byte) (s : State) : (s.supply bs).stream = s.stream ++ bs := rfl
@[simp] theorem supply_log (bs : List Byte) (s : State) : (s.supply bs).log = s.log := rfl
@[simp] theorem supply_txCount (bs : List Byte) (s : State) : (s.supply bs).txCount = s.txCount := rfl
@[simp] theorem supply_drawCount (bs : List Byte) (s : State) : (s.supply bs).drawCount = s.drawCount := rfl
@[simp] theorem supply_panel (bs : List Byte) (s : State) : (s.supply bs).panel = s.panel := rfl
@[simp] theorem supply_env (bs : List Byte) (s : State) : (s.supply bs).env = s.env := rfl
@[simp] theorem supply_cfg (bs : List Byte) (s : State) : (s.supply bs).cfg = s.cfg := rfl

@[simp] theorem blockReset_state (s : State) : (s.blockReset).state = .uninit := rfl
@[simp] theorem blockReset_result (s : State) : (s.blockReset).result = .ok := rfl
@[simp] theorem blockReset_stopped (s : State) : (s.blockReset).stopped = false := rfl
@[simp] theorem blockReset_lines (s : State) : (s.blockReset).lines = Lines.reset := rfl
@[simp] theorem blockReset_cp (s : State) : (s.blockReset).cp = 0 := rfl
@[simp] theorem blockReset_ncols (s : State) : (s.blockReset).ncols = 0 := rfl
@[simp] theorem blockReset_cols (s : State) : (s.blockReset).cols = Vector.replicate 21 Column.reset := rfl
@[simp] theorem blockReset_stream (s : State) : (s.blockReset).stream = [] := rfl
@[simp] theorem blockReset_log (s : State) : (s.blockReset).log = s.log := rfl
@[simp] theorem blockReset_txCount (s : State) : (s.blockReset).txCount = s.txCount := rfl
@[simp] theorem blockReset_drawCount (s : State) : (s.blockReset).drawCount = s.drawCount := rfl
@[simp] theorem blockReset_panel (s : State) : (s.blockReset).panel = s.panel := rfl
@[simp] theorem blockReset_env (s : State) : (s.blockReset).env = s.env := rfl
@[simp] theorem blockReset_cfg (s : State) : (s.blockReset).cfg = s.cfg := rfl

/-! ## Columns -/

theorem col_congr {s t : State} (h : t.cols = s.cols) (i : Fin 21) : t.col i = s.col i := by
  simp [col, h]

@[simp] theorem col_setCol_same (s : State) (i : Fin 21) (c : Column) : (s.setCol i c).col i = c := by
  simp [col]

theorem col_setCol_other (s : State) {i j : Fin 21} (c : Column) (h : j ≠ i) : (s.setCol i c).col j = s.col j := by
  have hij : i.val ≠ j.val := fun e => h (Fin.ext e.symm)
  simp [col, Vector.getElem_set_ne _ _ hij]

@[simp] theorem col_afterDraw (s : State) (l : List Nat) (i : Fin 21) : (s.afterDraw l).col i = s.col i := rfl
@[simp] theorem col_setLine (s : State) (w : LineWrite) (i : Fin 21) : (s.setLine w).col i = s.col i := rfl
@[simp] theorem col_emit (s : State) (e : Event) (i : Fin 21) : (s.emit e).col i = s.col i := rfl
@[simp] theorem col_txOk (s : State) (bs : List Byte) (i : Fin 21) : (s.txOk bs).col i = s.col i := rfl
@[simp] theorem col_txFail (s : State) (bs : List Byte) (n : Nat) (i : Fin 21) :
    (s.txFail bs n).col i = s.col i := rfl

/-! ## The environment's tapes depend on `env` alone -/

theorem replyAt_congr {s t : State} (h : t.env = s.env) (n : Nat) : t.replyAt n = s.replyAt n := by
  simp [replyAt, h]

theorem offerAt_congr {s t : State} (h : t.env = s.env) (n : Nat) : t.offerAt n = s.offerAt n := by
  simp [offerAt, h]

theorem nextDraw_congr {s t : State} (h : t.env = s.env) (hd : t.drawCount = s.drawCount) (l : List Nat) :
    t.nextDraw l = s.nextDraw l := by
  simp [nextDraw, offerAt, h, hd]

/-- The transport's answers depend on `env` and on the number of transfers made. -/
theorem repliesOk_congr {s t : State} (h : t.env = s.env) (hc : t.txCount = s.txCount) (n : Nat) :
    t.repliesOk n ↔ s.repliesOk n := by
  simp [repliesOk, replyAt, h, hc]

theorem repliesOk_mono {s : State} {m n : Nat} (h : m ≤ n) (hs : s.repliesOk n) : s.repliesOk m :=
  fun k hk => hs k (Nat.lt_of_lt_of_le hk h)

/-- The first transfer answered `OK` and the next `n` after it. -/
theorem repliesOk_succ {s t : State} (he : t.env = s.env) (hc : t.txCount = s.txCount + 1) (n : Nat) :
    s.repliesOk (n + 1) ↔ s.replyAt s.txCount = .ok ∧ t.repliesOk n := by
  constructor
  · intro h
    refine ⟨h 0 (Nat.succ_pos n), fun k hk => ?_⟩
    have := h (k + 1) (Nat.succ_lt_succ hk)
    simpa [replyAt, he, hc, Nat.add_assoc, Nat.add_comm 1 k] using this
  · rintro ⟨h0, h⟩ k hk
    cases k with
    | zero => simpa using h0
    | succ k =>
      have := h k (Nat.lt_of_succ_lt_succ hk)
      simpa [replyAt, he, hc, Nat.add_assoc, Nat.add_comm 1 k] using this

theorem repliesOk_txOk {s : State} (bs : List Byte) (n : Nat) :
    s.repliesOk (n + 1) ↔ s.replyAt s.txCount = .ok ∧ (s.txOk bs).repliesOk n :=
  repliesOk_succ (s := s) (t := s.txOk bs) rfl rfl n

end Sys2Proof.Machine.State
end

