-- ==== Sys2Proof/Laws/Perform.lean ====
section
/-! SUPPORT. What performing a plan on the panel interface can do, said once: either every transfer succeeds and the
whole plan's events are made, or the first failing transfer ends it. -/

namespace Sys2Proof.Machine

/-- The state after a plan whose transfers all succeed. -/
def State.afterPlan : List Action → State → State
  | [], s => s
  | .setLine w :: rest, s => afterPlan rest (s.setLine w)
  | .delay n :: rest, s => afterPlan rest (s.emit (.delay n))
  | .tx bs :: rest, s => afterPlan rest (s.txOk bs)

@[simp] theorem planEvents_append (p q : List Action) : planEvents (p ++ q) = planEvents p ++ planEvents q := by
  induction p with
  | nil => rfl
  | cons a p ih => cases a <;> simp [planEvents, ih]

@[simp] theorem planTransfers_append (p q : List Action) :
    planTransfers (p ++ q) = planTransfers p + planTransfers q := by
  induction p with
  | nil => simp [planTransfers]
  | cons a p ih => cases a <;> simp [planTransfers, ih, Nat.add_right_comm]

theorem perform_append (p q : List Action) (s : State) : perform (p ++ q) s = (perform p s).andThen (perform q) := by
  induction p generalizing s with
  | nil => rfl
  | cons a p ih =>
    cases a with
    | setLine w => exact ih _
    | delay n => exact ih _
    | tx bs =>
      simp only [List.cons_append, perform]
      split
      · exact ih _
      · rfl

namespace State

theorem afterPlan_append (p q : List Action) (s : State) :
    s.afterPlan (p ++ q) = (s.afterPlan p).afterPlan q := by
  induction p generalizing s with
  | nil => rfl
  | cons a p ih => cases a <;> exact ih _

/-- The fields a plan leaves alone when its transfers succeed. -/
theorem afterPlan_frame (p : List Action) (s : State) :
    PanelFrame s (s.afterPlan p) ∧ (s.afterPlan p).state = s.state ∧ (s.afterPlan p).result = s.result ∧
    (s.afterPlan p).cp = s.cp := by
  induction p generalizing s with
  | nil => exact ⟨⟨rfl, rfl, rfl, rfl, rfl, rfl, rfl⟩, rfl, rfl, rfl⟩
  | cons a p ih =>
    cases a <;>
      (obtain ⟨⟨h1, h2, h3, h4, h5, h6, h7⟩, h8, h9, h10⟩ := ih _
       exact ⟨⟨h1, h2, h3, h4, h5, h6, h7⟩, h8, h9, h10⟩)

@[simp] theorem afterPlan_stopped (p : List Action) (s : State) : (s.afterPlan p).stopped = s.stopped :=
  (afterPlan_frame p s).1.stopped
@[simp] theorem afterPlan_ncols (p : List Action) (s : State) : (s.afterPlan p).ncols = s.ncols :=
  (afterPlan_frame p s).1.ncols
@[simp] theorem afterPlan_cols (p : List Action) (s : State) : (s.afterPlan p).cols = s.cols :=
  (afterPlan_frame p s).1.cols
@[simp] theorem afterPlan_stream (p : List Action) (s : State) : (s.afterPlan p).stream = s.stream :=
  (afterPlan_frame p s).1.stream
@[simp] theorem afterPlan_drawCount (p : List Action) (s : State) : (s.afterPlan p).drawCount = s.drawCount :=
  (afterPlan_frame p s).1.drawCount
@[simp] theorem afterPlan_env (p : List Action) (s : State) : (s.afterPlan p).env = s.env :=
  (afterPlan_frame p s).1.env
@[simp] theorem afterPlan_cfg (p : List Action) (s : State) : (s.afterPlan p).cfg = s.cfg :=
  (afterPlan_frame p s).1.cfg
@[simp] theorem afterPlan_state (p : List Action) (s : State) : (s.afterPlan p).state = s.state :=
  (afterPlan_frame p s).2.1
@[simp] theorem afterPlan_result (p : List Action) (s : State) : (s.afterPlan p).result = s.result :=
  (afterPlan_frame p s).2.2.1
@[simp] theorem afterPlan_cp (p : List Action) (s : State) : (s.afterPlan p).cp = s.cp :=
  (afterPlan_frame p s).2.2.2

/-- The log grows by exactly the plan's events (R44). -/
@[simp] theorem afterPlan_log (p : List Action) (s : State) :
    (s.afterPlan p).log = (planEvents p).reverse ++ s.log := by
  induction p generalizing s with
  | nil => rfl
  | cons a p ih => cases a <;> simp [afterPlan, planEvents, ih]

@[simp] theorem afterPlan_trace (p : List Action) (s : State) : (s.afterPlan p).trace = s.trace ++ planEvents p := by
  simp [trace]

@[simp] theorem afterPlan_txCount (p : List Action) (s : State) :
    (s.afterPlan p).txCount = s.txCount + planTransfers p := by
  induction p generalizing s with
  | nil => rfl
  | cons a p ih => cases a <;> simp [afterPlan, planTransfers, ih, Nat.add_assoc, Nat.add_comm 1]

/-- The lines after a plan are those its line changes leave. -/
theorem afterPlan_lines (p : List Action) (s : State) :
    (s.afterPlan p).lines = p.foldl (fun l a => match a with | .setLine w => l.set w | _ => l) s.lines := by
  induction p generalizing s with
  | nil => rfl
  | cons a p ih => cases a <;> simp [afterPlan, ih]

end State

/-- A plan all of whose transfers the transport answers with `OK`. -/
theorem perform_of_repliesOk {p : List Action} {s : State} (h : s.repliesOk (planTransfers p)) :
    perform p s = .ok (s.afterPlan p) := by
  induction p generalizing s with
  | nil => rfl
  | cons a p ih =>
    cases a with
    | setLine w => exact ih ((State.repliesOk_congr (t := s.setLine w) rfl rfl _).2 h)
    | delay n => exact ih ((State.repliesOk_congr (t := s.emit (.delay n)) rfl rfl _).2 h)
    | tx bs =>
      obtain ⟨h0, h1⟩ := (State.repliesOk_txOk bs _).1 h
      simp only [perform, h0]
      exact ih h1

/-- Everything performing a plan can do: all of it, or all of it up to its first transfer answered `FAIL` (R29, R90). -/
theorem perform_cases (p : List Action) (s : State) :
    (s.repliesOk (planTransfers p) ∧ perform p s = .ok (s.afterPlan p)) ∨
    ∃ q bs r reached, p = q ++ .tx bs :: r ∧ s.repliesOk (planTransfers q) ∧
      s.replyAt (s.txCount + planTransfers q) = .fail reached ∧
      perform p s = .raised .transportFail ((s.afterPlan q).txFail bs reached) := by
  induction p generalizing s with
  | nil => exact .inl ⟨fun k hk => absurd hk (Nat.not_lt_zero k), rfl⟩
  | cons a p ih =>
    cases a with
    | setLine w =>
      rcases ih (s.setLine w) with ⟨h, hp⟩ | ⟨q, bs, r, n, rfl, hq, hr, hp⟩
      · exact .inl ⟨(State.repliesOk_congr rfl rfl _).1 h, hp⟩
      · exact .inr ⟨.setLine w :: q, bs, r, n, rfl, (State.repliesOk_congr rfl rfl _).1 hq, hr, hp⟩
    | delay d =>
      rcases ih (s.emit (.delay d)) with ⟨h, hp⟩ | ⟨q, bs, r, n, rfl, hq, hr, hp⟩
      · exact .inl ⟨(State.repliesOk_congr rfl rfl _).1 h, hp⟩
      · exact .inr ⟨.delay d :: q, bs, r, n, rfl, (State.repliesOk_congr rfl rfl _).1 hq, hr, hp⟩
    | tx bs =>
      cases hrep : s.replyAt s.txCount with
      | fail n =>
        refine .inr ⟨[], bs, p, n, rfl, fun k hk => absurd hk (Nat.not_lt_zero k), ?_, ?_⟩
        · simpa [planTransfers] using hrep
        · simp [perform, hrep, State.afterPlan]
      | ok =>
        have hper : perform (.tx bs :: p) s = perform p (s.txOk bs) := by simp [perform, hrep]
        rcases ih (s.txOk bs) with ⟨h, hp⟩ | ⟨q, bs', r, n, rfl, hq, hr, hp⟩
        · exact .inl ⟨(State.repliesOk_txOk bs _).2 ⟨hrep, h⟩, hper.trans hp⟩
        · refine .inr ⟨.tx bs :: q, bs', r, n, rfl, (State.repliesOk_txOk bs _).2 ⟨hrep, hq⟩, ?_, hper.trans hp⟩
          rw [State.replyAt_congr (s := s) (t := s.txOk bs) rfl] at hr
          simpa [planTransfers, Nat.add_assoc, Nat.add_comm 1] using hr

/-- The fields performing a plan leaves alone, however it ends. -/
theorem perform_frame (p : List Action) (s : State) :
    PanelFrame s (perform p s).state ∧ (perform p s).state.state = s.state ∧
    (perform p s).state.result = s.result ∧ (perform p s).state.cp = s.cp := by
  rcases perform_cases p s with ⟨-, h⟩ | ⟨q, bs, r, n, -, -, -, h⟩ <;> rw [h]
  · exact State.afterPlan_frame p s
  · obtain ⟨⟨h1, h2, h3, h4, h5, h6, h7⟩, h8, h9, h10⟩ := State.afterPlan_frame q s
    exact ⟨⟨h1, h2, h3, h4, h5, h6, h7⟩, h8, h9, h10⟩

/-- A plan raises nothing but `TransportFail`. -/
theorem perform_raises {p : List Action} {s t : State} {e : Error} (h : perform p s = .raised e t) :
    e = .transportFail := by
  rcases perform_cases p s with ⟨-, h'⟩ | ⟨q, bs, r, n, -, -, -, h'⟩ <;> rw [h'] at h <;> cases h
  rfl

/-- A plan never takes a transfer back. -/
theorem perform_txCount_le (p : List Action) (s : State) : s.txCount ≤ (perform p s).state.txCount := by
  rcases perform_cases p s with ⟨-, h⟩ | ⟨q, bs, r, n, -, -, -, h⟩ <;> rw [h] <;> simp
  omega

/-- Answers left over after at most `m` transfers are those of the state reached. -/
theorem repliesOk_after {s t : State} {m n : Nat} (he : t.env = s.env) (hle : s.txCount ≤ t.txCount)
    (hc : t.txCount ≤ s.txCount + m) (h : s.repliesOk (m + n)) : t.repliesOk n := by
  intro k hk
  have := h (t.txCount - s.txCount + k) (by omega)
  rw [State.replyAt_congr he]
  rwa [show s.txCount + (t.txCount - s.txCount + k) = t.txCount + k by omega] at this

end Sys2Proof.Machine
end

