-- ==== Sys2Proof/Laws/Command.lean ====
section
/-! SUPPORT. A host command whose rule performs one plan in `READY`: what it answers, said once. -/

namespace Sys2Proof.Machine

/-- Every transfer succeeds: the plan's whole effect, `RESULT = OK`, and `CP` past the command. -/
theorem planCommand_of_repliesOk {len : Nat} {plan : List Action} {body : State → Run} {s : State}
    (hs : s.state = .ready) (hb : body { s with result := .ok } = perform plan { s with result := .ok })
    (hr : s.repliesOk (planTransfers plan)) :
    hostCommand len (needReady body) s =
      { State.afterPlan plan { s with result := .ok } with cp := s.cp + len } := by
  have hp := perform_of_repliesOk (s := { s with result := .ok }) (p := plan)
    ((State.repliesOk_congr (s := s) rfl rfl _).2 hr)
  rw [hostCommand_of_ok ((needReady_ready (s := { s with result := .ok }) hs).trans (hb.trans hp))]
  simp

/-- A silent no-op (R95): only `RESULT` and `CP` are written. -/
theorem silentCommand {len : Nat} {body : State → Run} {s : State} (hs : s.state = .ready)
    (hb : body { s with result := .ok } = .ok { s with result := .ok }) :
    hostCommand len (needReady body) s = { s with result := .ok, cp := s.cp + len } := by
  rw [hostCommand_of_ok ((needReady_ready (s := { s with result := .ok }) hs).trans hb)]

/-- Outside `READY` (R92): `ERR_STATE`, and nothing else but `CP`. -/
theorem rejectedCommand {len : Nat} {body : State → Run} {s : State} (hs : s.state ≠ .ready) :
    hostCommand len (needReady body) s = { s with result := .errState, cp := s.cp + len } := by
  rw [hostCommand_of_raised (needReady_other hs)]
  rfl

/-! ## The plans' events and transfers -/

@[simp] theorem planTransfers_sendCmd (c : PanelCmd) : planTransfers (sendCmd c) = 1 := rfl
@[simp] theorem planTransfers_sendData (bs : List Byte) : planTransfers (sendData bs) = 1 := rfl
@[simp] theorem planEvents_sendCmd (c : PanelCmd) : planEvents (sendCmd c) = cmdSent (cmdByte c) := rfl
@[simp] theorem planEvents_sendData (bs : List Byte) : planEvents (sendData bs) = dataSent bs := rfl

theorem planTransfers_flatMap {α : Type} (f : α → List Action) (l : List α) :
    planTransfers (l.flatMap f) = (l.map fun a => planTransfers (f a)).sum := by
  induction l with
  | nil => rfl
  | cons a l ih => simp [ih]

theorem planEvents_flatMap {α : Type} (f : α → List Action) (l : List α) :
    planEvents (l.flatMap f) = l.flatMap fun a => planEvents (f a) := by
  induction l with
  | nil => rfl
  | cons a l ih => simp [ih]

@[simp] theorem planTransfers_setWindow (x0 y0 x1 y1 : Half) : planTransfers (setWindowPlan x0 y0 x1 y1) = 5 := rfl
@[simp] theorem planEvents_setWindow (x0 y0 x1 y1 : Half) :
    planEvents (setWindowPlan x0 y0 x1 y1) = windowSent x0 y0 x1 y1 := rfl
@[simp] theorem planTransfers_writePixel (c : Half) : planTransfers (writePixelPlan c) = 1 := rfl
@[simp] theorem planEvents_writePixel (c : Half) : planEvents (writePixelPlan c) = dataSent [hiByte c, loByte c] := rfl

@[simp] theorem planTransfers_pixelRun (n : Nat) (c : Half) : planTransfers (pixelRunPlan n c) = n := by
  induction n with
  | zero => rfl
  | succ n ih => simp [pixelRunPlan, ih, Nat.add_comm]

theorem planEvents_pixelRun (n : Nat) (c : Half) :
    planEvents (pixelRunPlan n c) = (List.replicate n (dataSent [hiByte c, loByte c])).flatten := by
  induction n with
  | zero => rfl
  | succ n ih => simp [pixelRunPlan, ih, List.replicate_succ]

theorem drawPixelPlan_inside {x y : Half} (c : Half) (hx : x.toNat < 128) (hy : y.toNat < 160) :
    drawPixelPlan x y c = setWindowPlan x y x y ++ writePixelPlan c := by
  have h : ¬(128 ≤ x.toNat ∨ 160 ≤ y.toNat) := by omega
  simp [drawPixelPlan, h]

theorem drawPixelPlan_outside {x y : Half} (c : Half) (h : 128 ≤ x.toNat ∨ 160 ≤ y.toNat) :
    drawPixelPlan x y c = [] := by
  simp [drawPixelPlan, h]

/-- R73: the test a character passes to be drawn. -/
theorem charDrawn_iff {x y : Half} {code : Byte} :
    charDrawn x y code = true ↔
      (32 ≤ code.toNat ∧ code.toNat ≤ 126) ∧ x.toNat ≤ 122 ∧ y.toNat ≤ 152 := by
  simp [charDrawn, Config.validCode, and_assoc]

theorem drawCharPlan_undrawn (cfg : Config) {x y : Half} {code : Byte} (fg bg : Half)
    (h : charDrawn x y code = false) : drawCharPlan cfg x y code fg bg = [] := by
  simp [drawCharPlan, h]

/-- The pixel draws of a drawn cell lie on the panel. -/
theorem cellPixel_inside {x y : Half} (hx : x.toNat ≤ 122) (hy : y.toNat ≤ 152) {k r : Nat} (hk : k < 6) (hr : r < 8) :
    (x + BitVec.ofNat 16 k).toNat = x.toNat + k ∧ (y + BitVec.ofNat 16 r).toNat = y.toNat + r := by
  constructor <;> simp [BitVec.toNat_add] <;> omega

theorem glyphColumnPlan_events {bits : Byte} {x y fg bg : Half} (hx : x.toNat < 128) (hy : y.toNat ≤ 152) :
    planEvents (glyphColumnPlan bits x y fg bg) =
      (List.range 8).flatMap (fun r => pixelSent x (y + BitVec.ofNat 16 r) (if bits.getLsbD r then fg else bg)) ∧
    planTransfers (glyphColumnPlan bits x y fg bg) = 48 := by
  have key : ∀ r ∈ List.range 8, drawPixelPlan x (y + BitVec.ofNat 16 r) (if bits.getLsbD r then fg else bg) =
      setWindowPlan x (y + BitVec.ofNat 16 r) x (y + BitVec.ofNat 16 r) ++
        writePixelPlan (if bits.getLsbD r then fg else bg) := by
    intro r hr
    have hr' : r < 8 := List.mem_range.1 hr
    refine drawPixelPlan_inside _ hx ?_
    have := (cellPixel_inside (x := 0) (y := y) (k := 0) (r := r) (by simp) hy (by omega) hr').2
    omega
  have hplan : glyphColumnPlan bits x y fg bg = (List.range 8).flatMap fun r =>
      setWindowPlan x (y + BitVec.ofNat 16 r) x (y + BitVec.ofNat 16 r) ++
        writePixelPlan (if bits.getLsbD r then fg else bg) := by
    simp only [glyphColumnPlan, Config.GLYPH_H]
    exact List.flatMap_congr key
  rw [hplan, planEvents_flatMap, planTransfers_flatMap]
  constructor
  · simp [pixelSent]
  · simp

theorem spacingPlan_events {x y bg : Half} (hx : x.toNat ≤ 122) (hy : y.toNat ≤ 152) :
    planEvents (spacingPlan x y bg) =
      (List.range 8).flatMap (fun r => pixelSent (x + 5) (y + BitVec.ofNat 16 r) bg) ∧
    planTransfers (spacingPlan x y bg) = 48 := by
  have h5 := (cellPixel_inside (x := x) (y := y) (k := 5) (r := 0) hx hy (by omega) (by omega)).1
  have h := glyphColumnPlan_events (bits := 0) (x := x + BitVec.ofNat 16 5) (y := y) (fg := bg) (bg := bg)
    (by omega) hy
  simpa [glyphColumnPlan, spacingPlan] using h

/-- R73: a drawn character: the events of its 48 pixels, 288 transfers. -/
theorem drawCharPlan_drawn (cfg : Config) {x y : Half} {code : Byte} (fg bg : Half)
    (h : charDrawn x y code = true) :
    planEvents (drawCharPlan cfg x y code fg bg) = charSent cfg x y code fg bg ∧
    planTransfers (drawCharPlan cfg x y code fg bg) = 288 := by
  obtain ⟨-, hx, hy⟩ := charDrawn_iff.1 h
  have hcol : ∀ k, k < 5 → (x + BitVec.ofNat 16 k).toNat < 128 := fun k hk => by
    have := (cellPixel_inside (x := x) (y := y) (k := k) (r := 0) hx hy (by omega) (by omega)).1
    omega
  have hsp := spacingPlan_events (bg := bg) hx hy
  simp only [drawCharPlan, h, if_true, planEvents_append, planTransfers_append, planEvents_flatMap,
    planTransfers_flatMap, hsp.1, hsp.2, charSent, Config.GLYPH_W]
  constructor
  · congr 1
    refine List.flatMap_congr fun k hk => ?_
    exact (glyphColumnPlan_events (hcol k (List.mem_range.1 hk)) hy).1
  · rw [List.map_congr_left fun k hk => (glyphColumnPlan_events (hcol k (List.mem_range.1 hk)) hy).2]
    simp

end Sys2Proof.Machine
end

