-- ==== Sys2Proof/Laws/Draw.lean ====
section
/-! SUPPORT. A random draw answers an element of the list it is asked for (R104). -/

namespace Sys2Proof.Machine

theorem pick_mem {l : List Nat} (h : l ≠ []) (offer : Nat) : pick l offer ∈ l := by
  unfold pick
  split
  · assumption
  · have hlt : offer % l.length < l.length := Nat.mod_lt _ (List.length_pos_of_ne_nil h)
    simp [List.getD, List.getElem?_eq_getElem hlt]

/-- Every element of the list can be drawn: it is the draw when the random source offers it. -/
theorem pick_of_mem {l : List Nat} {v : Nat} (h : v ∈ l) : pick l v = v := by
  simp [pick, h]

theorem mem_rangeList {a b v : Nat} : v ∈ rangeList a b ↔ a ≤ v ∧ v ≤ b := by
  simp only [rangeList, List.mem_map, List.mem_range]
  constructor
  · rintro ⟨k, hk, rfl⟩
    omega
  · rintro ⟨ha, hb⟩
    exact ⟨v - a, by omega, by omega⟩

theorem rangeList_ne_nil {a b : Nat} (h : a ≤ b) : rangeList a b ≠ [] :=
  List.ne_nil_of_mem (mem_rangeList.2 ⟨Nat.le_refl a, h⟩)

/-- A draw from a range lies in it. -/
theorem nextDraw_range (s : State) {a b : Nat} (h : a ≤ b) :
    a ≤ s.nextDraw (rangeList a b) ∧ s.nextDraw (rangeList a b) ≤ b :=
  mem_rangeList.1 (pick_mem (rangeList_ne_nil h) _)

theorem mem_firstCols {n : Byte} {c : Fin 21} : c ∈ firstCols n ↔ c.val < n.toNat := by
  simp [firstCols]

theorem firstCols_nodup (n : Byte) : (firstCols n).Nodup := (List.nodup_finRange 21).filter _

end Sys2Proof.Machine
end

