-- ==== Sys2Proof/Laws/Animation.lean ====
section
/-! SUPPORT. The animation's shared operations: what painting a tail, moving a head and one column's part of a tick can
do to the state, said once. -/

namespace Sys2Proof.Machine

/-- What painting leaves alone: everything but the lines, the trace, the two counters and the controller. -/
structure PaintFrame (s t : State) : Prop where
  state   : t.state = s.state
  result  : t.result = s.result
  stopped : t.stopped = s.stopped
  cp      : t.cp = s.cp
  ncols   : t.ncols = s.ncols
  cols    : t.cols = s.cols
  stream  : t.stream = s.stream
  env     : t.env = s.env
  cfg     : t.cfg = s.cfg

theorem PaintFrame.refl (s : State) : PaintFrame s s := ⟨rfl, rfl, rfl, rfl, rfl, rfl, rfl, rfl, rfl⟩

theorem PaintFrame.trans {s t u : State} (h : PaintFrame s t) (k : PaintFrame t u) : PaintFrame s u :=
  ⟨k.state.trans h.state, k.result.trans h.result, k.stopped.trans h.stopped, k.cp.trans h.cp, k.ncols.trans h.ncols,
    k.cols.trans h.cols, k.stream.trans h.stream, k.env.trans h.env, k.cfg.trans h.cfg⟩

theorem perform_paintFrame (p : List Action) (s : State) : PaintFrame s (perform p s).state := by
  obtain ⟨⟨h1, h2, h3, h4, -, h6, h7⟩, h8, h9, h10⟩ := perform_frame p s
  exact ⟨h8, h9, h1, h10, h2, h3, h4, h6, h7⟩

/-! ## The cells of the grid (R77, R84) -/

theorem cellX_le (c : Fin 21) : (cellX c).toNat ≤ 120 := by
  have := c.isLt
  have h := Nat.mod_le (6 * c.val) (2 ^ 16)
  simp only [cellX, Config.CELL_W, BitVec.toNat_ofNat]
  omega

/-- A visible row is a row of the grid. -/
theorem rowVisible_toNat {row : Half} (h : rowVisible row = true) : row.toNat < 20 := by
  simp only [rowVisible, Bool.and_eq_true, decide_eq_true_eq, Config.ROWS] at h
  obtain ⟨h1, h2⟩ := h
  rw [BitVec.toInt_eq_toNat_cond] at h1 h2
  have := row.isLt
  split at h1
  · rw [if_pos (by assumption)] at h2
    omega
  · omega

theorem cellY_le {row : Half} (h : rowVisible row = true) : (cellY row).toNat ≤ 152 := by
  have := rowVisible_toNat h
  simp only [cellY, Config.GLYPH_H, BitVec.toNat_ofNat]
  omega

/-- A cell of the grid costs at most the transfers of a drawn character. -/
theorem cellPlan_transfers_le (cfg : Config) (x y : Half) (code : Byte) (fg bg : Half) :
    planTransfers (drawCharPlan cfg x y code fg bg) ≤ 288 := by
  by_cases hd : charDrawn x y code = true
  · rw [(drawCharPlan_drawn cfg fg bg hd).2]
  · simp [drawCharPlan, hd, planTransfers]

theorem paintCell_frame (c : Fin 21) (i : Nat) (s : State) : PaintFrame s (paintCell c i s).state := by
  unfold paintCell
  simp only
  split
  · exact PaintFrame.trans (t := s.afterDraw (alphabetChoices s.cfg)) ⟨rfl, rfl, rfl, rfl, rfl, rfl, rfl, rfl, rfl⟩
      (perform_paintFrame _ _)
  · exact PaintFrame.refl s

/-- Painting a tail, however it ends, changes no column and no register. -/
theorem paintTail_frame (c : Fin 21) (i : Nat) (s : State) : PaintFrame s (paintTail c i s).state := by
  induction i generalizing s with
  | zero => exact paintCell_frame c 0 s
  | succ i ih =>
    simp only [paintTail]
    exact Run.andThen_state (paintCell_frame c (i + 1) s) fun t ht => ht.trans (ih t)

theorem paintCell_raises {c : Fin 21} {i : Nat} {s t : State} {e : Error} (h : paintCell c i s = .raised e t) :
    e = .transportFail := by
  unfold paintCell at h
  simp only at h
  split at h
  · exact perform_raises h
  · cases h

theorem paintTail_raises {c : Fin 21} {i : Nat} {s t : State} {e : Error} (h : paintTail c i s = .raised e t) :
    e = .transportFail := by
  induction i generalizing s with
  | zero => exact paintCell_raises h
  | succ i ih =>
    simp only [paintTail] at h
    cases hc : paintCell c (i + 1) s with
    | ok u => rw [hc] at h; exact ih h
    | raised e' u =>
      rw [hc] at h
      cases h
      exact paintCell_raises hc

/-- A painted cell makes one draw, a skipped row none (R81). -/
theorem paintCell_drawCount {c : Fin 21} {i : Nat} {s t : State} (h : paintCell c i s = .ok t) :
    t.drawCount = s.drawCount + if rowVisible ((s.col c).head - BitVec.ofNat 16 i) then 1 else 0 := by
  unfold paintCell at h
  simp only at h
  split at h
  · next hv =>
    obtain ⟨⟨-, -, -, -, hd, -, -⟩, -⟩ := perform_frame
      (drawCharPlan s.cfg (cellX c) (cellY ((s.col c).head - BitVec.ofNat 16 i))
        (BitVec.ofNat 8 (s.nextDraw (alphabetChoices s.cfg))) (rampColour s.cfg i) Config.BG)
      (s.afterDraw (alphabetChoices s.cfg))
    rw [h] at hd
    simpa [hv] using hd
  · next hv =>
    cases h
    simp [hv]

/-- A repaint makes one draw for each visible row it paints (R81). -/
theorem paintTail_drawCount {c : Fin 21} {i : Nat} {s t : State} (h : paintTail c i s = .ok t) :
    t.drawCount = s.drawCount +
      ((List.range (i + 1)).filter fun j => rowVisible ((s.col c).head - BitVec.ofNat 16 j)).length := by
  induction i generalizing s with
  | zero =>
    rw [paintCell_drawCount (i := 0) h]
    by_cases hv : rowVisible ((s.col c).head - BitVec.ofNat 16 0) = true <;>
      simp only [List.range_one, List.filter_cons, List.filter_nil, hv, if_true, if_false, Bool.false_eq_true,
        Nat.zero_add, List.length_cons, List.length_nil]
  | succ i ih =>
    simp only [paintTail] at h
    obtain ⟨u, hu, ht⟩ := Run.andThen_eq_ok.1 h
    have hcol : u.col c = s.col c := by
      have := paintCell_frame c (i + 1) s
      rw [hu] at this
      exact State.col_congr this.cols c
    rw [ih ht, hcol, paintCell_drawCount hu, List.range_succ (n := i + 1), List.filter_append]
    by_cases hv : rowVisible ((s.col c).head - BitVec.ofNat 16 (i + 1)) = true
    · simp only [hv, if_true, List.filter_cons_of_pos, List.filter_nil, List.length_append, List.length_singleton]
      omega
    · simp [hv]

/-! ## The head and the respawn -/

/-- A head that moves on without a respawn (R81). -/
theorem moveHead_stays {c : Fin 21} {s : State} (h : ((s.col c).head + 1 - zext16 (s.col c).tail).toInt ≤ 20) :
    moveHead c s = s.setCol c { s.col c with head := (s.col c).head + 1 } := by
  have h' : tailGone { s.col c with head := (s.col c).head + 1 } = false := by
    simp only [tailGone, decide_eq_false_iff_not]
    exact not_lt.2 h
  simp only [moveHead, State.col_setCol_same, h', Bool.false_eq_true, if_false]

/-- A respawn's tail and speed are drawn from their ranges (R82). -/
theorem respawnTail_range (s : State) (d : Nat) : 4 ≤ respawnTail s d ∧ respawnTail s d ≤ 13 :=
  mem_rangeList.1 (pick_mem (rangeList_ne_nil (by omega)) _)

theorem respawnSpeed_range (s : State) (d : Nat) : 1 ≤ respawnSpeed s d ∧ respawnSpeed s d ≤ 3 :=
  mem_rangeList.1 (pick_mem (rangeList_ne_nil (by omega)) _)

theorem respawnTail_congr {s t : State} (h : t.env = s.env) (d : Nat) : respawnTail t d = respawnTail s d := by
  simp [respawnTail, State.offerAt_congr h]

theorem respawnSpeed_congr {s t : State} (h : t.env = s.env) (d : Nat) : respawnSpeed t d = respawnSpeed s d := by
  simp [respawnSpeed, State.offerAt_congr h]

/-- A head whose tail has left the bottom: the column's new life, from the next two draws (R82). -/
theorem moveHead_respawns {c : Fin 21} {s : State} (h : columnRespawns (s.col c)) :
    (moveHead c s).col c =
      { head := 0, tail := BitVec.ofNat 8 (respawnTail s s.drawCount),
        speed := BitVec.ofNat 8 (respawnSpeed s s.drawCount), fc := (s.col c).fc } := by
  have h' : tailGone { s.col c with head := (s.col c).head + 1 } = true := by
    simp only [tailGone, decide_eq_true_eq]
    exact h
  simp only [moveHead, State.col_setCol_same, h', if_true, respawn]
  rfl

/-- Moving a head makes the two draws of a respawn or none (R81, R82). -/
theorem moveHead_drawCount (c : Fin 21) (s : State) :
    (moveHead c s).drawCount = s.drawCount + if columnRespawns (s.col c) then 2 else 0 := by
  by_cases h : columnRespawns (s.col c)
  · have h' : tailGone { s.col c with head := (s.col c).head + 1 } = true := by
      simp only [tailGone, decide_eq_true_eq]
      exact h
    rw [if_pos h]
    simp only [moveHead, State.col_setCol_same, h', if_true, respawn]
    rfl
  · rw [moveHead_stays (not_lt.1 h), if_neg h]
    rfl

/-- Moving one column's head touches no other column. -/
theorem moveHead_other {c d : Fin 21} (s : State) (h : d ≠ c) : (moveHead c s).col d = s.col d := by
  unfold moveHead
  simp only
  split
  · simp only [respawn]
    rw [State.col_setCol_other _ _ h]
    simp only [State.col_afterDraw]
    exact State.col_setCol_other _ _ h
  · exact State.col_setCol_other _ _ h

/-- What moving a head leaves alone: everything but the columns, the trace and the draw count. -/
theorem moveHead_frame (c : Fin 21) (s : State) :
    (moveHead c s).state = s.state ∧ (moveHead c s).result = s.result ∧ (moveHead c s).stopped = s.stopped ∧
    (moveHead c s).lines = s.lines ∧ (moveHead c s).cp = s.cp ∧ (moveHead c s).ncols = s.ncols ∧
    (moveHead c s).stream = s.stream ∧ (moveHead c s).txCount = s.txCount ∧ (moveHead c s).panel = s.panel ∧
    (moveHead c s).env = s.env ∧ (moveHead c s).cfg = s.cfg := by
  unfold moveHead
  simp only
  split <;> exact ⟨rfl, rfl, rfl, rfl, rfl, rfl, rfl, rfl, rfl, rfl, rfl⟩

/-! ## One column's part of a tick -/

/-- R80 to R83: everything a column's part of a tick can do: count down; advance, with the painting and its draws done
and the head moved; or stop in the painting, with the counter reset and the head not moved. -/
theorem tickColumn_cases (c : Fin 21) (s : State) :
    (¬ columnDue (s.col c) ∧ tickColumn c s = .ok (s.setCol c { s.col c with fc := (s.col c).fc - 1 })) ∨
    (columnDue (s.col c) ∧ ∃ t,
      PaintFrame (s.setCol c { s.col c with fc := zext16 (s.col c).speed }) t ∧
      t.drawCount = s.drawCount + columnCells (s.col c) ∧
      tickColumn c s = .ok (moveHead c t)) ∨
    (columnDue (s.col c) ∧ ∃ t,
      PaintFrame (s.setCol c { s.col c with fc := zext16 (s.col c).speed }) t ∧
      tickColumn c s = .raised .transportFail t) := by
  by_cases hd : columnDue (s.col c)
  · have hfr := paintTail_frame c (s.col c).tail.toNat (s.setCol c { s.col c with fc := zext16 (s.col c).speed })
    have htc : tickColumn c s =
        (paintTail c (s.col c).tail.toNat (s.setCol c { s.col c with fc := zext16 (s.col c).speed })).andThen
          fun t => .ok (moveHead c t) := by
      rw [tickColumn]
      simp only [if_pos hd, advance, State.col_setCol_same]
    cases hp : paintTail c (s.col c).tail.toNat (s.setCol c { s.col c with fc := zext16 (s.col c).speed }) with
    | ok t =>
      rw [hp] at hfr htc
      have hdc := paintTail_drawCount hp
      rw [State.col_setCol_same] at hdc
      exact .inr (.inl ⟨hd, t, hfr, hdc, htc⟩)
    | raised e t =>
      cases paintTail_raises hp
      rw [hp] at hfr htc
      exact .inr (.inr ⟨hd, t, hfr, htc⟩)
  · exact .inl ⟨hd, by rw [tickColumn]; simp only [if_neg hd]⟩

/-- R80 to R82, R23: what a column's part of a tick leaves when it runs to its end, from a state whose next draw is
number `d`: its own column, its draws made, and every other column as it was. -/
theorem tickColumn_ok {c : Fin 21} {s t : State} (h : tickColumn c s = .ok t) :
    t.drawCount = s.drawCount + columnDraws (s.col c) ∧ (∀ b, b ≠ c → t.col b = s.col b) ∧
    (¬ columnDue (s.col c) → t.col c = { s.col c with fc := (s.col c).fc - 1 }) ∧
    (columnDue (s.col c) → ¬ columnRespawns (s.col c) →
      t.col c = { s.col c with head := (s.col c).head + 1, fc := zext16 (s.col c).speed }) ∧
    (columnDue (s.col c) → columnRespawns (s.col c) →
      t.col c =
        { head := 0
          tail := BitVec.ofNat 8 (respawnTail s (s.drawCount + columnCells (s.col c)))
          speed := BitVec.ofNat 8 (respawnSpeed s (s.drawCount + columnCells (s.col c)))
          fc := zext16 (s.col c).speed }) := by
  rcases tickColumn_cases c s with ⟨hd, hc⟩ | ⟨hd, u, hfr, hdc, hc⟩ | ⟨-, u, -, hc⟩ <;> rw [h] at hc <;> cases hc
  · exact ⟨by rw [columnDraws, if_neg hd]; rfl, fun b hb => State.col_setCol_other _ _ hb,
      fun _ => State.col_setCol_same _ _ _, fun h => absurd h hd, fun h => absurd h hd⟩
  · have hcol : u.col c = { s.col c with fc := zext16 (s.col c).speed } :=
      (State.col_congr hfr.cols c).trans (State.col_setCol_same _ _ _)
    have hres : columnRespawns (u.col c) ↔ columnRespawns (s.col c) := by rw [hcol]
    refine ⟨?_, fun b hb => ?_, fun h => absurd hd h, fun _ hn => ?_, fun _ hr => ?_⟩
    · simp only [moveHead_drawCount, hres, hdc, columnDraws, if_pos hd, Nat.add_assoc]
    · rw [moveHead_other u hb, State.col_congr hfr.cols b]
      exact State.col_setCol_other _ _ hb
    · rw [moveHead_stays (not_lt.1 (hres.not.2 hn)), State.col_setCol_same, hcol]
    · rw [moveHead_respawns (hres.2 hr), hdc, hcol, respawnTail_congr hfr.env, respawnSpeed_congr hfr.env]
      rfl

end Sys2Proof.Machine
end

