-- ==== Sys2Proof/Laws/Decode.lean ====
section
/-! SUPPORT. Byte order: a 16-bit value and its two bytes (R33, R51). -/

namespace Sys2Proof.Machine

/-- Bit `i` of `{a, b}`: the low byte's below 8, the high byte's from 8 on. -/
theorem getLsbD_half (a b : Byte) (i : Nat) :
    (half a b).getLsbD i = if i < 8 then b.getLsbD i else a.getLsbD (i - 8) :=
  BitVec.getLsbD_append

@[simp] theorem half_bytes (v : Half) : half (hiByte v) (loByte v) = v := by
  apply BitVec.eq_of_getLsbD_eq
  intro i hi
  rw [getLsbD_half]
  split
  · next h => simp [loByte, h]
  · next h => simp [hiByte, show i - 8 < 8 by omega, show 8 + (i - 8) = i by omega]

@[simp] theorem hiByte_half (a b : Byte) : hiByte (half a b) = a := by
  apply BitVec.eq_of_getLsbD_eq
  intro i hi
  rw [hiByte, BitVec.getLsbD_extractLsb', getLsbD_half]
  simp [hi, BitVec.getLsbD_eq_getElem]

@[simp] theorem loByte_half (a b : Byte) : loByte (half a b) = b := by
  apply BitVec.eq_of_getLsbD_eq
  intro i hi
  rw [loByte, BitVec.getLsbD_extractLsb', getLsbD_half]
  simp [hi, BitVec.getLsbD_eq_getElem]

@[simp] theorem bytesOf_length (v : Half) : (bytesOf v).length = 2 := rfl

end Sys2Proof.Machine
end

