-- ==== Sys2Proof/Laws/Gram.lean ====
section
/-! SUPPORT. The controller's pixel memory: read after write, and the canonical form is kept. -/

namespace Sys2Proof.Machine.Gram

@[simp] theorem read_nil (a : Nat) : read [] a = none := rfl

theorem read_write_same (g : List (Nat × Half)) (a : Nat) (v : Half) : read (write g a v) a = some v := by
  induction g with
  | nil => simp [write, read]
  | cons e g ih =>
    obtain ⟨b, w⟩ := e
    simp only [write]
    split
    · simp [read]
    · split
      · simp [read]
      · rename_i h
        simp [read, h, ih]

theorem read_write_other (g : List (Nat × Half)) {a a' : Nat} (v : Half) (h : a' ≠ a) :
    read (write g a v) a' = read g a' := by
  induction g with
  | nil => simp [write, read, h, unlisted]
  | cons e g ih =>
    obtain ⟨b, w⟩ := e
    simp only [write]
    split
    · simp [read, h]
    · split
      · rename_i hb
        subst hb
        simp [read, h]
      · simp [read, ih]

theorem wf_cons {x : Nat × Half} {g : List (Nat × Half)} :
    wf (x :: g) = true ↔ (∀ y ∈ g.head?, x.1 < y.1) ∧ wf g = true := by
  cases g <;> simp [wf]

/-- The first address of the written list is the written one or the old first one. -/
theorem head_write (g : List (Nat × Half)) (a : Nat) (v : Half) :
    ∀ y ∈ (write g a v).head?, y.1 = a ∨ ∃ z ∈ g.head?, y.1 = z.1 := by
  cases g with
  | nil => simp [write]
  | cons e g =>
    obtain ⟨b, w⟩ := e
    simp only [write]
    split
    · simp
    · split <;> simp

theorem write_wf (g : List (Nat × Half)) (a : Nat) (v : Half) (h : wf g = true) : wf (write g a v) = true := by
  induction g with
  | nil => simp [write, wf]
  | cons e g ih =>
    obtain ⟨b, w⟩ := e
    simp only [write]
    rw [wf_cons] at h
    split
    · rw [wf_cons, wf_cons]
      exact ⟨by simpa, h⟩
    · split
      · rename_i hab
        subst hab
        rw [wf_cons]
        exact h
      · rw [wf_cons]
        refine ⟨fun y hy => ?_, ih h.2⟩
        rcases head_write g a v y hy with hy' | ⟨z, hz, hyz⟩
        · show b < y.1
          omega
        · rw [hyz]
          exact h.1 z hz

/-- A write lists no address but those listed before and its own. -/
theorem mem_write {g : List (Nat × Half)} {a : Nat} {v : Half} {e : Nat × Half} (h : e ∈ write g a v) :
    e = (a, v) ∨ e ∈ g := by
  induction g with
  | nil => simpa [write] using h
  | cons x g ih =>
    obtain ⟨b, w⟩ := x
    simp only [write] at h
    split at h
    · simpa using h
    · split at h
      · simp only [List.mem_cons] at h ⊢
        tauto
      · simp only [List.mem_cons] at h ⊢
        rcases h with h | h
        · tauto
        · have := ih h
          tauto

end Sys2Proof.Machine.Gram
end

