-- ==== Sys2Proof/Laws/Panel.lean ====
section
/-! SUPPORT. The controller's reference model: every operation over its memory keeps the canonical form, the bounds and
the legal modes, and so does performing a plan. -/

namespace Sys2Proof.Machine

namespace Panel

variable {cfg : Config} {p : Panel}

/-- A mode cut to its legal length (R40). -/
theorem clipMode_legal {m : PanelMode} {b : Byte} {got : List Byte} (h : clipMode m = .param b got) :
    got.length < 4 := by
  cases m <;> cases h
  simp only [List.length_take]
  omega

theorem legal_scramble (p : Panel) : Legal cfg (scramble p) :=
  ⟨rfl, by simp [scramble], fun _ _ h => clipMode_legal h⟩

/-- Dropping every value keeps a controller legal, and so does changing its registers within the legal modes. -/
theorem legal_regs {r : PanelRegs} (h : Legal cfg p) (hm : ∀ b got, r.mode = .param b got → got.length < 4) :
    Legal cfg { p with regs := r } := ⟨h.1, h.2.1, hm⟩

theorem legal_gram_nil (h : Legal cfg p) : Legal cfg { p with gram := [] } := ⟨rfl, by simp, h.2.2⟩

theorem legal_advancePointer (h : Legal cfg p) : Legal cfg (advancePointer cfg p) := by
  simp only [advancePointer]
  split
  · exact legal_regs h h.2.2
  · split
    · exact legal_regs h h.2.2
    · split
      · exact legal_regs h h.2.2
      · exact ⟨h.1, h.2.1, h.2.2⟩

theorem legal_writePixel (h : Legal cfg p) (v : Half) : Legal cfg (writePixel cfg p v) := by
  unfold writePixel
  apply legal_advancePointer
  split
  · next hb =>
    refine ⟨Gram.write_wf _ _ _ h.1, fun e he => ?_, h.2.2⟩
    rcases Gram.mem_write he with rfl | he
    · show p.regs.py.toNat * cfg.gramW + p.regs.px.toNat < cfg.gramW * cfg.gramH
      calc p.regs.py.toNat * cfg.gramW + p.regs.px.toNat
          < p.regs.py.toNat * cfg.gramW + cfg.gramW := by omega
        _ = (p.regs.py.toNat + 1) * cfg.gramW := by ring
        _ ≤ cfg.gramH * cfg.gramW := Nat.mul_le_mul_right _ hb.2.1
        _ = cfg.gramW * cfg.gramH := Nat.mul_comm _ _
    · exact h.2.1 e he
  · exact legal_gram_nil h

theorem legal_startCommand (h : Legal cfg p) (b : Byte) : Legal cfg (startCommand p b) := by
  unfold startCommand
  split
  · refine ⟨?_, fun e he => ?_, by simp⟩
    · split
      · exact h.1
      · rfl
    · simp only at he
      split at he
      · exact h.2.1 e he
      · simp at he
  · split
    · exact legal_scramble p
    · refine legal_regs h fun b' got hm => ?_
      cases hm
      simp

theorem legal_setRange (h : Legal cfg p) (b d0 d1 d2 d3 : Byte) : Legal cfg (setRange p b d0 d1 d2 d3) := by
  unfold setRange
  split <;> exact legal_regs h (by simp)

theorem legal_receiveData (bs : List Byte) (h : Legal cfg p) : Legal cfg (receiveData cfg bs p) := by
  induction bs generalizing p with
  | nil => exact h
  | cons d bs ih =>
    simp only [receiveData]
    split
    · exact ih (legal_regs h (by simp))
    · exact ih (legal_writePixel (legal_regs h (by simp)) _)
    · next b got hm =>
      split
      · split
        · exact ih (legal_setRange h _ _ _ _ _)
        · next hgot =>
          refine ih (legal_regs h fun b' got' he => ?_)
          cases he
          have hlen := h.2.2 b got hm
          have h3 : got.length ≠ 3 := fun h3 => by
            obtain ⟨x, y, z, rfl⟩ := List.length_eq_three.1 h3
            exact hgot x y z rfl
          simp only [List.length_append, List.length_singleton]
          omega
      · exact legal_scramble p
    · exact legal_scramble p

theorem legal_receive (dc : DcState) (bs : List Byte) (h : Legal cfg p) : Legal cfg (receive cfg dc bs p) := by
  cases dc with
  | data => exact legal_receiveData bs h
  | command =>
    unfold receive
    simp only
    induction bs generalizing p with
    | nil => exact h
    | cons b bs ih => exact ih (legal_startCommand h b)

theorem legal_onLine (w : LineWrite) (h : Legal cfg p) : Legal cfg (onLine w p) := by
  unfold onLine
  split
  · exact legal_scramble p
  · exact h

end Panel

/-- Performing a plan keeps the controller legal, however it ends. -/
theorem perform_panelLegal (plan : List Action) {s : State} (h : panelLegal s) : panelLegal (perform plan s).state := by
  induction plan generalizing s with
  | nil => exact h
  | cons a plan ih =>
    cases a with
    | setLine w => exact ih (s := s.setLine w) (Panel.legal_onLine w h)
    | delay n => exact ih (s := s.emit (.delay n)) h
    | tx bs =>
      simp only [perform]
      split
      · exact ih (s := s.txOk bs) (Panel.legal_receive _ _ h)
      · exact Panel.legal_receive (p := s.panel) _ _ h

/-- The action of an error keeps the controller legal. -/
theorem errorAction_panelLegal (e : Error) {s : State} (h : panelLegal s) : panelLegal (errorAction e s) := by
  cases e <;> exact h

end Sys2Proof.Machine
end

