-- ==== Sys2Proof/Laws/PerInstr.lean ====
section
/-! SUPPORT. Statements for all instructions, made per instruction. -/

namespace Sys2Proof.Laws.EncodeLength

/-- An instruction's word is as long as R52 says. -/
def Statement (i : Instr) : Prop := (encode i).length = instrLength i

theorem init : Statement .init := rfl
theorem setwin (x0 : Half) (y0 : Half) (x1 : Half) (y1 : Half) : Statement (.setwin x0 y0 x1 y1) := rfl
theorem wrpix (color : Half) : Statement (.wrpix color) := rfl
theorem fill (color : Half) : Statement (.fill color) := rfl
theorem drawpix (x : Half) (y : Half) (color : Half) : Statement (.drawpix x y color) := rfl
theorem drawchar (x : Half) (y : Half) (code : Byte) (fg : Half) (bg : Half) : Statement (.drawchar x y code fg bg) := rfl
theorem drawstr (x : Half) (y : Half) (fg : Half) (bg : Half) (text : List Byte) : Statement (.drawstr x y fg bg text) := by
  simp [Statement, encode, instrLength]
  omega
theorem colinit (n : Byte) : Statement (.colinit n) := rfl
theorem tick : Statement .tick := rfl
theorem reserved (op : Byte) : Statement (.reserved op) := rfl
theorem clear (color : Half) : Statement (.clear color) := rfl
theorem fillscreen (color : Half) : Statement (.fillscreen color) := rfl
theorem swreset : Statement .swreset := rfl
theorem slpout : Statement .slpout := rfl
theorem frmctr1 : Statement .frmctr1 := rfl
theorem frmctr2 : Statement .frmctr2 := rfl
theorem frmctr3 : Statement .frmctr3 := rfl
theorem pwctr1 : Statement .pwctr1 := rfl
theorem pwctr2 : Statement .pwctr2 := rfl
theorem pwctr3 : Statement .pwctr3 := rfl
theorem pwctr4 : Statement .pwctr4 := rfl
theorem pwctr5 : Statement .pwctr5 := rfl
theorem vmctr1 : Statement .vmctr1 := rfl
theorem colmod : Statement .colmod := rfl
theorem madctl : Statement .madctl := rfl
theorem gmctrp1 : Statement .gmctrp1 := rfl
theorem gmctrn1 : Statement .gmctrn1 := rfl
theorem dispon : Statement .dispon := rfl
theorem caset (first : Half) (last : Half) : Statement (.caset first last) := rfl
theorem raset (first : Half) (last : Half) : Statement (.raset first last) := rfl
theorem ramwr : Statement .ramwr := rfl

end Sys2Proof.Laws.EncodeLength
end

