-- ==== Sys2Proof/Tests/Slice0.lean ====
section
/-! SUPPORT. The model's own tests, with expected results from the spec's encodings, worked examples and vectors
(95_test_vectors.md), and a witness for the hypotheses of every statement. -/

namespace Sys2Proof.Tests

open Sys2Proof Sys2Proof.Machine

/-! ## WellFormed refuses what it checks (R50, R54) -/

theorem test_wellFormed_refuses_long_text : (Instr.drawstr 0 0 0 0 (List.replicate 256 0x41)).wellFormed = false := by
  decide +kernel

theorem test_wellFormed_accepts_255_characters :
    (Instr.drawstr 0 0 0 0 (List.replicate 255 0x41)).wellFormed = true := by decide +kernel
theorem test_wellFormed_refuses_assigned_opcode : (Instr.reserved 0x09).wellFormed = false := by decide
theorem test_wellFormed_accepts_reserved_opcodes :
    (Instr.reserved 0x00).wellFormed = true ∧ (Instr.reserved 0x0A).wellFormed = true ∧
    (Instr.reserved 0xFF).wellFormed = true := by decide

/-! ## Decoding, on words written out from R50 (one for each constructor a word decodes to) -/

theorem test_decode_init : decode [0x01, 0x04] = .ok (.init, [0x04]) := by decide
theorem test_decode_setwin :
    decode [0x02, 0x00, 0x05, 0x00, 0x07, 0x00, 0x03, 0x00, 0x02] = .ok (.setwin 5 7 3 2, []) := by decide
theorem test_decode_wrpix : decode [0x03, 0xF8, 0x00] = .ok (.wrpix 0xF800, []) := by decide
theorem test_decode_fill : decode [0x04, 0x12, 0x34] = .ok (.fill 0x1234, []) := by decide
theorem test_decode_drawpix :
    decode [0x05, 0x00, 0x0A, 0x00, 0x14, 0xFF, 0xFE] = .ok (.drawpix 10 20 0xFFFE, []) := by decide
theorem test_decode_drawchar :
    decode [0x06, 0x01, 0x02, 0x03, 0x04, 0x41, 0x07, 0xE0, 0x00, 0x01] =
      .ok (.drawchar 0x0102 0x0304 0x41 0x07E0 0x0001, []) := by decide
theorem test_decode_drawstr :
    decode [0x07, 0x00, 0x00, 0x00, 0x01, 0x07, 0xE0, 0x00, 0x02, 0x02, 0x41, 0x42, 0x09] =
      .ok (.drawstr 0 1 0x07E0 2 [0x41, 0x42], [0x09]) := by decide
theorem test_decode_colinit : decode [0x08, 0x15] = .ok (.colinit 21, []) := by decide
theorem test_decode_tick : decode [0x09] = .ok (.tick, []) := by decide
theorem test_decode_reserved :
    decode [0x00, 0x01] = .ok (.reserved 0x00, [0x01]) ∧ decode [0x2A] = .ok (.reserved 0x2A, []) := by decide
theorem test_decode_incomplete :
    decode [0x02, 0x00, 0x05] = .error (.incomplete 0x02) ∧ decode [] = .error .noOpcode ∧
    decode [0x07, 0x00, 0x00, 0x00, 0x00, 0x07, 0xE0, 0x00, 0x00, 0x02, 0x41] = .error (.incomplete 0x07) := by decide
/-- R56: the pseudo-instructions' words are `FILL`'s. -/
theorem test_encode_pseudo :
    encode (.clear 0x1234) = [0x04, 0x12, 0x34] ∧ encode (.fillscreen 0x1234) = [0x04, 0x12, 0x34] := by decide
/-- R57: the nineteen command bytes, in the table's order. -/
theorem test_encode_controller_commands :
    [encode .swreset, encode .slpout, encode .frmctr1, encode .frmctr2, encode .frmctr3, encode .pwctr1, encode .pwctr2,
     encode .pwctr3, encode .pwctr4, encode .pwctr5, encode .vmctr1, encode .colmod, encode .madctl, encode .gmctrp1,
     encode .gmctrn1, encode .dispon, encode (.caset 0x0002 0x0081), encode (.raset 0x0001 0x00A0), encode .ramwr] =
    [[0x01], [0x11], [0xB1], [0xB2], [0xB3], [0xC0], [0xC1],
     [0xC2], [0xC3], [0xC4], [0xC5], [0x3A], [0x36], [0xE0],
     [0xE1], [0x29], [0x2A, 0x00, 0x02, 0x00, 0x81], [0x2B, 0x00, 0x01, 0x00, 0xA0], [0x2C]] := by decide +kernel

theorem test_decodeTableWord :
    decodeTableWord 8 0x01 = some .init ∧ decodeTableWord 24 0x00F803 = some (.wrpix 0xF800) ∧
    decodeTableWord 8 0x07 = some (.drawstr 0 0 0 0 []) := by decide +kernel

/-! ## The assembler, on the programs of 95_test_vectors.md section 5 -/

theorem test_assemble_P1 :
    assemble [.init, .fill 0x0000, .drawpix 10 20 0xFFFF] =
      some [0x01, 0x04, 0x00, 0x00, 0x05, 0x00, 0x0A, 0x00, 0x14, 0xFF, 0xFF] := by decide
theorem test_assemble_P2 :
    assemble [.init, .drawstr 0 0 0x07E0 0x0000 ['A', 'B'], .comment, .drawchar 0 0 (.number 31) 0xFFFF 0x0000,
        .bytes [0x0A], .tick] =
      some [0x01, 0x07, 0x00, 0x00, 0x00, 0x00, 0x07, 0xE0, 0x00, 0x00, 0x02, 0x41, 0x42,
        0x06, 0x00, 0x00, 0x00, 0x00, 0x1F, 0xFF, 0xFF, 0x00, 0x00, 0x0A, 0x09] := by decide
theorem test_assemble_rejects :
    (AsmLine.wrpix 65536).assemble = none ∧ (AsmLine.drawchar 0 0 (.number 256) 0 0).assemble = none ∧
    (AsmLine.clear 5).assemble = some [0x04, 0x00, 0x05] := by decide

/-- P2's second line and a reserved byte, as characters. -/
theorem test_assembleText :
    assembleText ['D', 'R', 'A', 'W', 'S', 'T', 'R', ' ', ' ', '0', ',', ' ', '0', ',', ' ', '0', 'x', '0', '7', 'E', '0',
        ',', ' ', '0', ',', ' ', '"', 'A', ';', '"', ' ', ';', 't', '\n', '\n', '.', 'b', 'y', 't', 'e', ' ', '1', '0'] =
      some [0x07, 0x00, 0x00, 0x00, 0x00, 0x07, 0xE0, 0x00, 0x00, 0x02, 0x41, 0x3B, 0x0A] := by decide +kernel

/-! ## States to test on -/

/-- A block in `READY`, the controller selected, the transport answering `OK` to the first `n` transfers. -/
def readyState (n : Nat) : State :=
  { State.reset with
    state := .ready
    lines := { rst := .released, dc := .command, cs := .selected }
    env := { replies := List.replicate n .ok, draws := [] } }

/-- The reset state with the transport's first replies and the random source's first offers. -/
def scripted (replies : List Reply) (draws : List Nat) : State :=
  { State.reset with env := { replies := replies, draws := draws } }

/-- A block in `READY` with one active column. -/
def oneColumn (c : Column) (n : Nat) (draws : List Nat) : State :=
  { readyState n with
    ncols := 1
    cols := (Vector.replicate 21 Column.reset).set 0 c
    env := { replies := List.replicate n .ok, draws := draws } }

/-- What an outcome's next state shows. -/
def shows {α : Type} (o : Host.Outcome State Fault Refusal) (f : State → α) : Option α :=
  match o with
  | .next t => some (f t)
  | .fault _ => none
  | .refused _ => none

/-! ## One step of each instruction -/

/-- V-IN-1: 29 transfers, 66 events, `STATUS = 0x02`, `LINESR = 0x04`, `CP = 1`. -/
theorem test_init :
    shows (exec .init (scripted (List.replicate 29 .ok) []))
      (fun t => (t.txCount, t.log.length, t.readStatus 0x00, t.readStatus 0x01, t.cp)) =
    some (29, 66, 0x02, 0x04, 1) := by decide +kernel

/-- V-IN-3: `FAIL` at the first transfer. -/
theorem test_init_fails :
    shows (exec .init (scripted [.fail 0] [])) (fun t => (t.trace, t.readStatus 0x00, t.readStatus 0x01)) =
    some ([.line (.rst .asserted), .delay 10, .line (.rst .released), .delay 120, .line (.cs .selected),
           .line (.dc .command), .tx [0x01] .fail, .line (.cs .deselected)], 0x0B, 0x00) := by decide +kernel

/-- V-AD-4: the offset sum wraps. -/
theorem test_setwin_wraps :
    shows (exec (.setwin 65534 0 65535 0) (readyState 5)) (fun t => t.trace) =
    some (cmdSent 0x2A ++ dataSent [0x00, 0x00, 0x00, 0x01] ++ cmdSent 0x2B ++ dataSent [0x00, 0x01, 0x00, 0x01] ++
      cmdSent 0x2C) := by decide +kernel

/-- V-AD-1: the controller's window and pointer. -/
theorem test_setwin_window :
    shows (exec (.setwin 0 0 127 159) (readyState 5)) (fun t => t.panel.regs) =
    some { wx0 := 2, wx1 := 129, wy0 := 1, wy1 := 160, px := 2, py := 1, mode := .memwrite none } := by decide

/-- V-AD-5: the pixel lands at the window's only cell and the pointer wraps to it. -/
theorem test_wrpix :
    shows (exec (.wrpix 0xF800)
        { readyState 1 with panel :=
            { Panel.reset with regs := ⟨12, 12, 21, 21, 12, 21, .memwrite none⟩ } })
      (fun t => (t.trace, t.logicalPixel 10 20, t.panel.regs.px, t.panel.regs.py)) =
    some ([.line (.dc .data), .tx [0xF8, 0x00] .ok], some 0xF800, 12, 21) := by decide

/-- V-AD-8: `FAIL` at the second pixel, and none after it. -/
theorem test_fill_fails :
    shows (exec (.fill 0) { readyState 0 with env := ⟨List.replicate 6 .ok ++ [.fail 2], []⟩ })
      (fun t => (t.txCount, t.log.take 3, t.readStatus 0x00)) =
    some (7, [.line (.cs .deselected), .tx [0x00, 0x00] .fail, .line (.dc .data)], 0x0B) := by decide +kernel

/-- V-AD-7: `ERR_STATE` in `UNINIT`, no event. -/
theorem test_fill_rejected :
    shows (exec (.fill 0) State.reset) (fun t => (t.trace, t.result, t.cp)) = some ([], .errState, 3) := by decide

theorem test_clear_is_fill (c : Half) (s : State) : exec (.clear c) s = exec (.fill c) s := rfl
theorem test_fillscreen_is_fill (c : Half) (s : State) : exec (.fillscreen c) s = exec (.fill c) s := rfl

/-- V-PT-1. -/
theorem test_drawpix :
    shows (exec (.drawpix 127 159 0xFFFF) (readyState 6)) (fun t => (t.trace, t.logicalPixel 127 159)) =
    some (cmdSent 0x2A ++ dataSent [0x00, 0x81, 0x00, 0x81] ++ cmdSent 0x2B ++ dataSent [0x00, 0xA0, 0x00, 0xA0] ++
      cmdSent 0x2C ++ dataSent [0xFF, 0xFF], some 0xFFFF) := by decide +kernel

/-- V-PT-3: one row past the panel. -/
theorem test_drawpix_outside :
    shows (exec (.drawpix 0 160 0xFFFF) (readyState 0)) (fun t => (t.trace, t.result, t.cp)) = some ([], .ok, 7) := by
  decide

/-- V-PT-5: 288 transfers; rows 0 and 1 of the picture, `..#...` and `.#.#..`. -/
theorem test_drawchar :
    shows (exec (.drawchar 0 0 0x41 0x07E0 0x0000) (readyState 288))
      (fun t => (t.txCount, (List.range 6).map (t.logicalPixel · 0), (List.range 6).map (t.logicalPixel · 1))) =
    some (288, [some 0, some 0, some 0x07E0, some 0, some 0, some 0],
      [some 0, some 0x07E0, some 0, some 0x07E0, some 0, some 0]) := by decide +kernel

/-- V-PT-7 and V-PT-8: code 127, and column 123. -/
theorem test_drawchar_undrawn :
    shows (exec (.drawchar 0 0 127 0xFFFF 0) (readyState 0)) (fun t => t.log.length) = some 0 ∧
    shows (exec (.drawchar 123 0 0x41 0xFFFF 0) (readyState 0)) (fun t => t.log.length) = some 0 := by decide

/-- V-PT-10's last two characters: `C` at 122 fits, `D` at 128 does not. -/
theorem test_drawstr :
    shows (exec (.drawstr 122 0 0xFFFF 0 [0x43, 0x44]) (readyState 288)) (fun t => (t.txCount, t.cp)) =
    some (288, 12) := by decide +kernel

/-- V-PT-11: an invalid code is skipped and still advances. -/
theorem test_drawstr_skips :
    shows (exec (.drawstr 0 0 0xFFFF 0 [0x1F, 0x1F]) (readyState 0)) (fun t => (t.txCount, t.cp)) = some (0, 12) := by
  decide

/-- V-AN-1. -/
theorem test_colinit :
    shows (exec (.colinit 2) (scripted [] [19, 4, 1, 0, 0, 13, 3, 9]))
      (fun t => (t.col 0, t.col 1, t.readStatus 0x02, t.log.length)) =
    some ({ head := 19, tail := 4, speed := 1, fc := 0 }, { head := 0, tail := 13, speed := 3, fc := 9 }, 0x02, 8) := by
  decide +kernel

/-- V-AN-2: 22 columns. -/
theorem test_colinit_range :
    shows (exec (.colinit 22) (readyState 0)) (fun t => (t.ncols, t.readStatus 0x00)) = some (0, 0x22) := by decide

/-- V-AN-6: nothing painted, and a respawn that keeps the old speed in `fc`. -/
theorem test_tick_respawns :
    shows (exec .tick (oneColumn { head := 25, tail := 5, speed := 2, fc := 1 } 0 [9, 3]))
      (fun t => (t.col 0, t.log.length, t.txCount)) =
    some ({ head := 0, tail := 9, speed := 3, fc := 2 }, 2, 0) := by decide

/-- V-AN-11: a failure in the painting of the first of two due columns. -/
theorem test_tick_fails :
    shows (exec .tick
        { oneColumn { head := 5, tail := 4, speed := 1, fc := 0 } 0 [] with
          ncols := 2
          cols := ((Vector.replicate 21 Column.reset).set 0 ⟨5, 4, 1, 0⟩).set 1 ⟨5, 4, 1, 0⟩
          env := ⟨[.fail 1], [0x41]⟩ })
      (fun t => (t.col 0, t.col 1, t.state, t.trace)) =
    some ({ head := 5, tail := 4, speed := 1, fc := 1 }, { head := 5, tail := 4, speed := 1, fc := 0 }, .failed,
      [.draw [0x41, 0x42, 0x43, 0x44] 0x41, .line (.dc .command), .tx [0x2A] .fail, .line (.cs .deselected)]) := by
  decide +kernel

/-- P2: the reserved byte 0x0A. -/
theorem test_reserved :
    shows (exec (.reserved 0x0A) { readyState 0 with cp := 23 }) (fun t => (t.readStatus 0x00, t.cp, t.log.length)) =
    some (0x1E, 23, 0) := by decide

/-- R58: step 3 of the default table. -/
theorem test_frmctr1 :
    shows (exec .frmctr1 (readyState 2)) (fun t => t.trace) =
    some (cmdSent 0xB1 ++ dataSent [0x01, 0x2C, 0x2D]) := by decide +kernel

/-- R58: step 1 of the default table, which has no payload and a wait. -/
theorem test_swreset :
    shows (exec .swreset (readyState 1)) (fun t => t.trace) = some (cmdSent 0x01 ++ [.delay 150]) := by decide

theorem test_caset :
    shows (exec (.caset 0x0002 0x0081) (readyState 2)) (fun t => (t.trace, t.panel.regs.wx0, t.panel.regs.wx1)) =
    some (cmdSent 0x2A ++ dataSent [0x00, 0x02, 0x00, 0x81], 2, 129) := by decide

theorem test_ramwr :
    shows (exec .ramwr (readyState 1)) (fun t => (t.trace, t.panel.regs.mode)) =
    some (cmdSent 0x2C, .memwrite none) := by decide

/-! ## The command cycle -/

/-- The word of a table row supplied at `CP` is the next command run. -/
theorem test_step_fetches (s : State) (h : s = State.reset) :
    step (s.withFetchWord 8 0x01) = exec .init (s.withFetchWord 8 0x01) := by
  subst h
  rfl

theorem test_step_waits : step State.reset = .fault .noOpcode := rfl

/-- R24 on P1's end state. -/
theorem test_readStatus :
    ({ readyState 0 with lines := { rst := .released, dc := .data, cs := .selected } } : State).readStatus 0x01 = 0x06 ∧
    (readyState 0).readStatus 0x00 = 0x02 ∧ (readyState 0).readStatus 0x7F = 0x00 := by decide

theorem test_default_config_legal : defaultConfig.legal = true := by decide +kernel

/-- R59 (a) and (g): a second software reset, or a display-on step before the last, is not admitted. -/
theorem test_initTableLegal_refuses :
    Config.initTableLegal 0xC8 (defaultInitTable 0xC8 ++ [⟨.swreset, [], 150⟩, ⟨.dispon, [], 100⟩]) = false ∧
    Config.initTableLegal 0xC8 (defaultInitTable 0xC8 ++ [⟨.dispon, [], 100⟩]) = false ∧
    Config.initTableLegal 0xC8 (⟨.dispon, [], 0⟩ :: defaultInitTable 0xC8) = false := by decide +kernel

theorem test_default_config_glyph : grom defaultConfig (5 * 0x41) = 0x7C ∧ grom defaultConfig (5 * 0x44 + 4) = 0x1C := by
  decide +kernel


/-! ## Witnesses: for each statement with hypotheses, states and operands that meet them together -/

theorem getD_replicate_ok (n k : Nat) (d : Reply) (h : k < n) : (List.replicate n Reply.ok).getD k d = .ok := by
  simp [List.getD, h]

theorem repliesOk_of_replicate {s : State} {m n : Nat} (he : s.env.replies = List.replicate n .ok)
    (hc : s.txCount = 0) (h : m ≤ n) : s.repliesOk m := by
  intro k hk
  simp only [State.replyAt, he, hc, Nat.zero_add]
  exact getD_replicate_ok n k _ (Nat.lt_of_lt_of_le hk h)

theorem readyState_repliesOk (n : Nat) : (readyState n).repliesOk n := repliesOk_of_replicate rfl rfl (Nat.le_refl n)

/-- A `READY` block after one skipped byte of the stream, with the bytes at `CP`. -/
def streaming (bs : List Byte) (n : Nat) : State := { readyState n with stream := 0x09 :: bs, cp := 1 }

/-- A `READY` block whose controller has these registers. -/
def withRegs (r : PanelRegs) (replies : List Reply) : State :=
  { readyState 0 with panel := { Panel.reset with regs := r }, env := { replies := replies, draws := [] } }

/-- Three active columns: one not due, one due, one due that respawns. -/
def threeColumns (n : Nat) : State :=
  { readyState n with
    ncols := 3
    cols := (((Vector.replicate 21 Column.reset).set 0 ⟨5, 8, 2, 2⟩).set 1 ⟨5, 4, 1, 1⟩).set 2 ⟨25, 5, 2, 0⟩ }

theorem witness_DecodeReadsEncodedCommand :
    ∀ i ∈ [Instr.drawstr 1 2 3 4 (List.replicate 255 0x41), .clear 0xFFFF, .reserved 0x00, .reserved 0x0A, .colinit 255],
      i.isHostCommand = true ∧ i.wellFormed = true := by decide +kernel

theorem witness_DecodedBytesAreTheCommandsWord :
    decode [0x03, 0xFF, 0xFF, 0x01] = .ok (.wrpix 0xFFFF, [0x01]) ∧
    decode [0xFF] = .ok (.reserved 0xFF, []) := by decide

theorem witness_AssembledLinesDecodeToTheirCommands :
    (AsmLine.drawchar 65535 0 (.literal 'A') 1 2).command = some (.drawchar 0xFFFF 0 0x41 1 2) ∧
    (Char.ofNat 127).toNat < 128 ∧ 128 ≤ (Char.ofNat 128).toNat ∧
    ((List.replicate 255 'A').length ≤ 255 ∧ ∀ ch ∈ List.replicate 255 'A', ch.toNat < 128) ∧
    255 < (List.replicate 256 'A').length ∧ (∃ v ∈ [0, 256], 255 < v) := by
  refine ⟨by decide, by decide, by decide, ⟨by rw [List.length_replicate], fun ch h => ?_⟩,
    by rw [List.length_replicate]; omega, 256, by decide, by omega⟩
  rw [List.eq_of_mem_replicate h]
  decide

theorem witness_StepRunsTheCommandAtCp :
    (streaming [0x08, 0x15, 0x00] 0).stopped = false ∧
    decode ((streaming [0x08, 0x15, 0x00] 0).stream.drop (streaming [0x08, 0x15, 0x00] 0).cp) =
      .ok (.colinit 21, [0x00]) ∧
    (Instr.clear 5).isHostCommand = true ∧ (Instr.clear 5).wellFormed = true ∧
    (streaming [0x04, 0x00, 0x05, 0x09] 0).stream.drop (streaming [0x04, 0x00, 0x05, 0x09] 0).cp =
      encode (.clear 5) ++ [0x09] := by decide

theorem witness_StepWaitsForAWholeCommand :
    ({ readyState 0 with stopped := true } : State).stopped = true ∧
    ((streaming [] 0).stopped = false ∧ (streaming [] 0).stream.length ≤ (streaming [] 0).cp) ∧
    (∀ p ∈ [((0x02 : Byte), 9), (0x03, 3), (0x04, 3), (0x05, 7), (0x06, 10), (0x08, 2)],
      (streaming (p.1 :: List.replicate (p.2 - 2) 0) 0).stream.drop 1 = p.1 :: List.replicate (p.2 - 2) 0 ∧
      (List.replicate (p.2 - 2) (0 : Byte)).length + 1 < p.2) ∧
    ((streaming (0x07 :: List.replicate 8 0) 0).stream.drop 1 = 0x07 :: List.replicate 8 0 ∧
      (List.replicate 8 (0 : Byte)).length < 9) ∧
    ((List.replicate 8 0 ++ [0x02, 0x41] : List Byte)[8]? = some 0x02 ∧
      (List.replicate 8 0 ++ [0x02, 0x41] : List Byte).length < 9 + (0x02 : Byte).toNat) := by decide

theorem witness_CpAdvancesByTheCommandsLength :
    ∃ t, exec (.drawstr 0 0 0 0 [0x41, 0x42]) (readyState 576) = .next t := ⟨_, rfl⟩

theorem witness_BlockResetIsTheOnlyWayOut :
    (∃ t, step { streaming [0x04, 0x00, 0x00] 0 with state := .failed } = .next t) ∧
    ({ readyState 0 with stopped := true } : State).stopped = true := ⟨⟨_, rfl⟩, rfl⟩

theorem witness_StatusRegistersReadTheState :
    3 ≤ (0x03 : Byte).toNat ∧ 3 ≤ (0xFF : Byte).toNat ∧
    ({ readyState 0 with cp := 7, txCount := 9 } : State).state = (readyState 0).state ∧
    ({ readyState 0 with cp := 7, txCount := 9 } : State).lines = (readyState 0).lines := by decide

theorem witness_ReservedOpcodeStopsTheBlock :
    ∀ op ∈ [(0x00 : Byte), 0x0A, 0xFF], (streaming [op] 0).stopped = false ∧
      (streaming [op] 0).stream.drop (streaming [op] 0).cp = op :: [] ∧ (op.toNat = 0 ∨ 0x0A ≤ op.toNat) := by decide

theorem witness_WrongStateIsRejectedWithoutEffect :
    (readyState 0).state ≠ .uninit ∧ State.reset.state ≠ .ready ∧
    shows (exec .tick State.reset) (fun t => t.result) = some .errState ∧
    shows (exec .init (readyState 0)) (fun t => t.result) = some .errState := by decide

theorem witness_RangeErrorOnlyFromColinit :
    21 < (22 : Byte).toNat ∧ 21 < (255 : Byte).toNat ∧
    shows (exec (.colinit 22) State.reset) (fun t => t.result) = some .errRange := by decide

theorem witness_FirstFailedTransferEndsTheCommand :
    (∃ t, exec (.wrpix 1) (readyState 1) = .next t) ∧
    (∃ t, exec (.wrpix 1) (withRegs Panel.reset.regs [.fail 1]) = .next t) :=
  ⟨⟨_, rfl⟩, ⟨_, rfl⟩⟩

theorem witness_FailedBlockMakesNoTransfer :
    ({ streaming [0x03, 0x00, 0x00] 0 with state := .failed } : State).state = .failed ∧
    ∃ t, step { streaming [0x03, 0x00, 0x00] 0 with state := .failed } = .next t := ⟨rfl, _, rfl⟩

theorem witness_InitRunsTheTable :
    (scripted (List.replicate 29 .ok) []).state = .uninit ∧
    ((scripted (List.replicate 29 .ok) []).cfg.initTable.map initStepTransfers).sum = 29 ∧
    (scripted (List.replicate 29 .ok) []).repliesOk 29 ∧
    (scripted (List.replicate 29 .ok) []).cfg.initTable.getLast? = some ⟨.dispon, [], 100⟩ ∧
    (scripted (List.replicate 29 .ok) []).cfg.legal = true ∧
    (∀ st ∈ (scripted (List.replicate 29 .ok) []).cfg.initTable, st.cmd = .swreset → st.payload = []) :=
  ⟨rfl, by decide, repliesOk_of_replicate rfl rfl (Nat.le_refl _), by decide, test_default_config_legal, by decide⟩

theorem witness_InitDefaultTableCounts :
    (scripted (List.replicate 29 .ok) []).state = .uninit ∧
    (scripted (List.replicate 29 .ok) []).cfg.initTable = defaultInitTable 0xC8 ∧
    (scripted (List.replicate 29 .ok) []).repliesOk 29 :=
  ⟨rfl, rfl, repliesOk_of_replicate rfl rfl (Nat.le_refl _)⟩

theorem witness_SetwinSendsTheWindow : (readyState 5).state = .ready ∧ (readyState 5).repliesOk 5 :=
  ⟨rfl, readyState_repliesOk 5⟩

theorem witness_SetwinSetsTheControllersWindow : (readyState 5).state = .ready ∧ (readyState 5).repliesOk 5 :=
  ⟨rfl, readyState_repliesOk 5⟩

theorem witness_WrpixSendsOnePixel : (readyState 1).state = .ready ∧ (readyState 1).repliesOk 1 :=
  ⟨rfl, readyState_repliesOk 1⟩

/-- The full panel's window, with the pointer at its last cell. -/
theorem witness_WrpixStoresAtThePointer :
    let s := withRegs ⟨2, 129, 1, 160, 129, 160, .memwrite none⟩ [.ok]
    s.state = .ready ∧ s.repliesOk 1 ∧ s.panel.regs.mode = .memwrite none ∧
    2 ≤ s.panel.regs.wx0.toNat ∧ s.panel.regs.wx0.toNat ≤ s.panel.regs.wx1.toNat ∧ s.panel.regs.wx1.toNat < 130 ∧
    1 ≤ s.panel.regs.wy0.toNat ∧ s.panel.regs.wy0.toNat ≤ s.panel.regs.wy1.toNat ∧ s.panel.regs.wy1.toNat < 161 ∧
    s.panel.regs.px.toNat < s.cfg.gramW ∧ s.panel.regs.py.toNat < s.cfg.gramH ∧ s.cfg.wrap = .toWindowStart := by
  refine ⟨rfl, repliesOk_of_replicate (n := 1) rfl rfl (Nat.le_refl _), rfl, ?_⟩
  decide

theorem witness_FailedWrpixDeliversAPrefix :
    ∀ n ∈ [0, 1, 2], (withRegs ⟨2, 2, 1, 1, 2, 1, .memwrite none⟩ [.fail n]).state = .ready ∧
      (withRegs ⟨2, 2, 1, 1, 2, 1, .memwrite none⟩ [.fail n]).replyAt 0 = .fail n ∧
      (withRegs ⟨2, 2, 1, 1, 2, 1, .memwrite none⟩ [.fail n]).panel.regs.mode = .memwrite none := by
  intro n _
  exact ⟨rfl, rfl, rfl⟩

theorem witness_WrpixUnprimedFixesNothing :
    (readyState 1).state = .ready ∧ (readyState 1).repliesOk 1 ∧ (readyState 1).panel.regs.mode = .idle ∧
    (withRegs ⟨2, 2, 1, 1, 2, 1, .param 0x29 []⟩ [.ok]).state = .ready ∧
    (withRegs ⟨2, 2, 1, 1, 2, 1, .param 0x29 []⟩ [.ok]).repliesOk 1 ∧
    (withRegs ⟨2, 2, 1, 1, 2, 1, .param 0x29 []⟩ [.ok]).panel.regs.mode = .param 0x29 [] ∧
    (0x29 : Byte) ≠ 0x2A ∧ (0x29 : Byte) ≠ 0x2B :=
  ⟨rfl, readyState_repliesOk 1, rfl, rfl, repliesOk_of_replicate (n := 1) rfl rfl (Nat.le_refl _), rfl, by decide, by decide⟩

theorem witness_FillSendsTheWholePanel : (readyState 20485).state = .ready ∧ (readyState 20485).repliesOk 20485 :=
  ⟨rfl, readyState_repliesOk 20485⟩

theorem witness_FillPaintsEveryPixel :
    (readyState 20485).state = .ready ∧ (readyState 20485).repliesOk 20485 ∧ 130 ≤ (readyState 20485).cfg.gramW ∧
    161 ≤ (readyState 20485).cfg.gramH ∧ (readyState 20485).cfg.wrap = .toWindowStart :=
  ⟨rfl, readyState_repliesOk 20485, show 130 ≤ 132 by decide, show 161 ≤ 162 by decide, rfl⟩

theorem witness_DrawpixSendsOnePixelOrNothing :
    ((readyState 6).state = .ready ∧ (127 : Half).toNat < 128 ∧ (159 : Half).toNat < 160 ∧ (readyState 6).repliesOk 6) ∧
    (128 ≤ (128 : Half).toNat ∧ 160 ≤ (160 : Half).toNat) :=
  ⟨⟨rfl, by decide, by decide, readyState_repliesOk 6⟩, by decide⟩

theorem witness_DrawpixPaintsExactlyItsPixel :
    (readyState 6).state = .ready ∧ (127 : Half).toNat < 128 ∧ (159 : Half).toNat < 160 ∧ (readyState 6).repliesOk 6 ∧
    130 ≤ (readyState 6).cfg.gramW ∧ 161 ≤ (readyState 6).cfg.gramH :=
  ⟨rfl, by decide, by decide, readyState_repliesOk 6, show 130 ≤ 132 by decide, show 161 ≤ 162 by decide⟩

theorem witness_DrawcharSendsTheCellOrNothing :
    ((readyState 288).state = .ready ∧ 32 ≤ (32 : Byte).toNat ∧ (126 : Byte).toNat ≤ 126 ∧ (122 : Half).toNat ≤ 122 ∧
      (152 : Half).toNat ≤ 152 ∧ (readyState 288).repliesOk 288) ∧
    ((31 : Byte).toNat < 32 ∧ 126 < (127 : Byte).toNat ∧ 122 < (123 : Half).toNat ∧ 152 < (153 : Half).toNat) :=
  ⟨⟨rfl, by decide, by decide, by decide, by decide, readyState_repliesOk 288⟩, by decide⟩

theorem witness_DrawcharPaintsTheGlyph :
    (readyState 288).state = .ready ∧ 32 ≤ (126 : Byte).toNat ∧ (126 : Byte).toNat ≤ 126 ∧ (122 : Half).toNat ≤ 122 ∧
    (152 : Half).toNat ≤ 152 ∧ (readyState 288).repliesOk 288 ∧ 130 ≤ (readyState 288).cfg.gramW ∧
    161 ≤ (readyState 288).cfg.gramH :=
  ⟨rfl, by decide, by decide, by decide, by decide, readyState_repliesOk 288, show 130 ≤ 132 by decide,
    show 161 ≤ 162 by decide⟩

/-- `C` at 122 is drawn and `D` is not; an invalid code draws nothing. -/
theorem witness_DrawstrSendsItsVisibleCharacters :
    ∀ text ∈ [[(0x43 : Byte), 0x44], [0x1F]], ∃ (s : State) (evs : List Event), s.state = .ready ∧
      evs = text.zipIdx.flatMap (fun p =>
        if (122 : Half).toNat + 6 * p.2 ≤ 122 ∧ 32 ≤ p.1.toNat ∧ p.1.toNat ≤ 126 ∧ (152 : Half).toNat ≤ 152 then
          charSent s.cfg ((122 : Half) + BitVec.ofNat 16 (6 * p.2)) 152 p.1 0xFFFF 0
        else []) ∧
      s.repliesOk (transportWrites evs) := by
  intro text _
  let evs := text.zipIdx.flatMap (fun p =>
    if (122 : Half).toNat + 6 * p.2 ≤ 122 ∧ 32 ≤ p.1.toNat ∧ p.1.toNat ≤ 126 ∧ (152 : Half).toNat ≤ 152 then
      charSent defaultConfig ((122 : Half) + BitVec.ofNat 16 (6 * p.2)) 152 p.1 0xFFFF 0
    else [])
  exact ⟨readyState (transportWrites evs), evs, rfl, rfl, readyState_repliesOk _⟩

theorem witness_DrawstrPaintsOnlyItsCells :
    (readyState 576).state = .ready ∧ (readyState 576).repliesOk (288 * [(0x41 : Byte), 0x42].length) ∧
    130 ≤ (readyState 576).cfg.gramW ∧ 161 ≤ (readyState 576).cfg.gramH :=
  ⟨rfl, readyState_repliesOk 576, show 130 ≤ 132 by decide, show 161 ≤ 162 by decide⟩

theorem witness_RampColourIsBackgroundPastTheRamp :
    3 < defaultConfig.ramp.length ∧ defaultConfig.ramp.length ≤ 4 := by decide

theorem witness_ColinitDrawsTheColumns :
    (21 : Byte).toNat ≤ 21 ∧ (20 : Fin 21).val < (21 : Byte).toNat ∧
    (0 : Byte).toNat ≤ 21 ∧ (0 : Byte).toNat ≤ (0 : Fin 21).val := by decide

/-- A column in each of the four cases, each at the edge of its case. -/
theorem witness_TickAdvancesExactlyTheDueColumns :
    let s := threeColumns 1440
    s.state = .ready ∧ tickCells s = 5 ∧ s.repliesOk 1440 ∧ s.cfg.legal = true ∧
    s.ncols.toNat ≤ (3 : Fin 21).val ∧
    ((0 : Fin 21).val < s.ncols.toNat ∧ ¬ ((s.col 0).fc - 1).toInt ≤ 0) ∧
    (((s.col 1).fc - 1).toInt ≤ 0 ∧ ((s.col 1).head + 1 - zext16 (s.col 1).tail).toInt ≤ 20) ∧
    ((2 : Fin 21).val < s.ncols.toNat ∧ ((s.col 2).fc - 1).toInt ≤ 0 ∧
      20 < ((s.col 2).head + 1 - zext16 (s.col 2).tail).toInt) :=
  ⟨rfl, by decide +kernel, readyState_repliesOk 1440, test_default_config_legal, by decide +kernel, by decide +kernel,
    by decide +kernel, by decide +kernel⟩

theorem witness_TickWithNoDueColumnIsSilent :
    (oneColumn ⟨5, 8, 2, 2⟩ 0 []).state = .ready ∧
    ∀ c : Fin 21, c.val < (oneColumn ⟨5, 8, 2, 2⟩ 0 []).ncols.toNat → ¬ columnDue ((oneColumn ⟨5, 8, 2, 2⟩ 0 []).col c) := by
  refine ⟨rfl, fun c hc => ?_⟩
  have h0 : c = 0 := Fin.ext (Nat.lt_one_iff.1 hc)
  subst h0
  unfold columnDue
  decide

/-- A column whose whole visible tail is repainted, and one that respawns with nothing painted. -/
theorem witness_AdvanceRepaintsTheVisibleTail :
    (oneColumn ⟨5, 4, 1, 1⟩ 1440 []).cfg.legal = true ∧ columnCells ((oneColumn ⟨5, 4, 1, 1⟩ 1440 []).col 0) = 5 ∧
    (oneColumn ⟨5, 4, 1, 1⟩ 1440 []).repliesOk 1440 ∧
    columnCells ((oneColumn ⟨25, 5, 2, 1⟩ 0 []).col 0) = 0 ∧
    20 < (((oneColumn ⟨25, 5, 2, 1⟩ 0 []).col 0).head + 1 - zext16 ((oneColumn ⟨25, 5, 2, 1⟩ 0 []).col 0).tail).toInt :=
  ⟨test_default_config_legal, by decide +kernel, repliesOk_of_replicate rfl rfl (Nat.le_refl _), by decide +kernel,
    by decide +kernel⟩

theorem witness_TickPaintsOnlyItsCells :
    (threeColumns 1440).state = .ready ∧ tickCells (threeColumns 1440) = 5 ∧ (threeColumns 1440).repliesOk 1440 ∧
    130 ≤ (threeColumns 1440).cfg.gramW ∧ 161 ≤ (threeColumns 1440).cfg.gramH :=
  ⟨rfl, by decide +kernel, readyState_repliesOk 1440, show 130 ≤ 132 by decide, show 161 ≤ 162 by decide⟩

/-- Four active columns: one waits, one moves on after painting one cell, one respawns, and the last fails at its first
transfer. -/
def failingTick : State :=
  { readyState 0 with
    ncols := 4
    cols := ((((Vector.replicate 21 Column.reset).set 0 ⟨5, 8, 2, 2⟩).set 1 ⟨24, 5, 1, 1⟩).set 2 ⟨25, 5, 2, 0⟩).set 3
      ⟨5, 4, 1, 1⟩
    env := ⟨List.replicate 288 .ok ++ [.fail 1], [0x41, 9, 3, 0x42]⟩ }

theorem witness_TickFailureKeepsEarlierColumns :
    (∃ s t : State, s = failingTick ∧ s.state = .ready ∧ exec .tick s = .next t ∧ t.result = .errTransport) ∧
    ¬ columnDue (failingTick.col 0) ∧
    (columnDue (failingTick.col 1) ∧ ¬ columnRespawns (failingTick.col 1)) ∧
    (columnDue (failingTick.col 2) ∧ columnRespawns (failingTick.col 2)) :=
  ⟨⟨_, _, rfl, rfl, rfl, by decide +kernel⟩, by decide +kernel, by decide +kernel, by decide +kernel⟩

theorem witness_InactiveColumnsAreNeverTouched :
    (streaming [0x08, 0x15] 0).ncols.toNat ≤ 21 ∧ (∃ t, step (streaming [0x08, 0x15] 0) = .next t) ∧
    (∃ t, exec .tick (readyState 0) = .next t) ∧ (oneColumn ⟨5, 8, 2, 2⟩ 0 []).ncols.toNat ≤ (1 : Fin 21).val :=
  ⟨by decide, ⟨_, rfl⟩, ⟨_, rfl⟩, by decide⟩

theorem oneColumn_legal {k : Column} (n : Nat) (draws : List Nat) (h : columnLegal k) :
    columnsLegal (oneColumn k n draws) := by
  refine ⟨show (1 : Byte).toNat ≤ 21 by decide, fun c hc => ?_⟩
  have h0 : c = 0 := Fin.ext (Nat.lt_one_iff.1 hc)
  subst h0
  exact h

/-- The slowest column, which respawns on tick 108, and the fastest, which respawns on its first. -/
theorem witness_ColumnRespawnsOnItsTick :
    (columnsLegal (oneColumn ⟨0, 13, 3, 9⟩ (108 * (21 * 14 * 288)) []) ∧ max 9 1 + (20 + 13 - 0) * 3 = 108 ∧
      (oneColumn ⟨0, 13, 3, 9⟩ (108 * (21 * 14 * 288)) []).repliesOk (108 * (21 * 14 * 288))) ∧
    (columnsLegal (oneColumn ⟨33, 13, 1, 0⟩ (1 * (21 * 14 * 288)) []) ∧ max 0 1 + (20 + 13 - 33) * 1 = 1 ∧
      (oneColumn ⟨33, 13, 1, 0⟩ (1 * (21 * 14 * 288)) []).repliesOk (1 * (21 * 14 * 288))) := by
  refine ⟨⟨oneColumn_legal _ _ ?_, rfl, repliesOk_of_replicate rfl rfl (Nat.le_refl _)⟩,
    ⟨oneColumn_legal _ _ ?_, rfl, repliesOk_of_replicate rfl rfl (Nat.le_refl _)⟩⟩ <;>
    (unfold columnLegal; decide)

theorem witness_InitCommandsSendTheirTableEntry :
    (readyState 2).cfg.initTable.find? (fun st => st.cmd = .frmctr1) = some ⟨.frmctr1, [0x01, 0x2C, 0x2D], 0⟩ ∧
    (readyState 2).repliesOk (initStepTransfers ⟨.frmctr1, [0x01, 0x2C, 0x2D], 0⟩) ∧
    (readyState 1).cfg.initTable.find? (fun st => st.cmd = .slpout) = some ⟨.slpout, [], 255⟩ ∧
    (readyState 1).repliesOk (initStepTransfers ⟨.slpout, [], 255⟩) ∧ PanelCmd.slpout ≠ .swreset :=
  ⟨by decide, readyState_repliesOk 2, by decide, readyState_repliesOk 1, by decide⟩

theorem witness_WindowCommandsReachTheController :
    (readyState 2).repliesOk 2 ∧ (readyState 1).repliesOk 1 ∧
    Panel.windowLegal (withRegs ⟨2, 129, 1, 160, 0, 0, .idle⟩ [.ok]).panel.regs = true :=
  ⟨readyState_repliesOk 2, readyState_repliesOk 1, by decide⟩

theorem witness_OnlyTheListedCommandBytesAreEmitted :
    (Instr.init).isHostCommand = true ∧ (Instr.drawpix 0 0 0).isHostCommand = true ∧ State.reset.cfg.legal = true ∧
    (∃ t, exec .init (scripted (List.replicate 29 .ok) []) = .next t) ∧
    (∃ t, exec (.drawpix 0 0 0) (readyState 6) = .next t) :=
  ⟨rfl, rfl, test_default_config_legal, ⟨_, rfl⟩, ⟨_, rfl⟩⟩

theorem witness_EveryDrawIsFromItsList :
    State.reset.cfg.legal = true ∧ ∃ t, exec (.colinit 2) (scripted [] [19, 4, 1, 0, 99]) = .next t :=
  ⟨test_default_config_legal, _, rfl⟩

theorem witness_StreamTableAndTraceAreKept : ∃ t, exec .tick (threeColumns 1440) = .next t := ⟨_, rfl⟩

theorem witness_TheControllerIsNeverReadBack : ∃ t, exec (.wrpix 1) (readyState 1) = .next t := ⟨_, rfl⟩

theorem witness_HostAppendsDoNotDisturbAStep : ∃ t, step (streaming [0x09, 0x01] 0) = .next t := ⟨_, rfl⟩

/-- `UNINIT` to `READY`, `UNINIT` to `FAILED` and `READY` to `FAILED`. -/
theorem witness_LifecycleHasNoOtherTransition :
    (∃ s t : State, step s = .next t ∧ s.state = .uninit ∧ t.state = .ready) ∧
    (∃ s t : State, step s = .next t ∧ s.state = .uninit ∧ t.state = .failed) ∧
    (∃ s t : State, step s = .next t ∧ s.state = .ready ∧ t.state = .failed) :=
  ⟨⟨{ scripted (List.replicate 29 .ok) [] with stream := [0x01] }, _, rfl, rfl, by decide +kernel⟩,
   ⟨{ scripted [.fail 0] [] with stream := [0x01] }, _, rfl, rfl, by decide +kernel⟩,
   ⟨{ streaming [0x03, 0x00, 0x00] 0 with env := ⟨[.fail 0], []⟩ }, _, rfl, rfl, by decide +kernel⟩⟩

theorem witness_OnlyAReservedOpcodeSetsStopped :
    ({ readyState 0 with stopped := true } : State).stopped = true ∧
    (∃ t, step (streaming [0x0A] 0) = .next t) ∧ (∃ t, step (streaming [0x09] 0) = .next t) ∧
    (∃ t, exec .tick { readyState 0 with stopped := true } = .next t) := ⟨rfl, ⟨_, rfl⟩, ⟨_, rfl⟩, ⟨_, rfl⟩⟩

theorem witness_EveryStepKeepsColumnsLegal :
    columnsLegal { oneColumn ⟨33, 13, 3, 9⟩ 0 [] with stream := [0x09] } ∧
    (∃ t, step { oneColumn ⟨33, 13, 3, 9⟩ 0 [] with stream := [0x09] } = .next t) ∧
    columnLegal ⟨33, 13, 3, 9⟩ ∧ columnLegal ⟨0, 4, 1, 0⟩ := by
  have h : columnLegal ⟨33, 13, 3, 9⟩ := by unfold columnLegal; decide
  exact ⟨oneColumn_legal 0 [] h, ⟨_, rfl⟩, h, by unfold columnLegal; decide⟩

theorem witness_EveryStepKeepsTheLifecycleLegal :
    lifecycleLegal (streaming [0x03, 0x00, 0x00] 1) ∧ ∃ t, step (streaming [0x03, 0x00, 0x00] 1) = .next t := by
  refine ⟨?_, _, rfl⟩
  unfold lifecycleLegal
  decide

theorem witness_EveryStepKeepsThePanelLegal :
    panelLegal (streaming [0x03, 0x00, 0x00] 1) ∧ ∃ t, step (streaming [0x03, 0x00, 0x00] 1) = .next t := by
  refine ⟨⟨rfl, fun e he => absurd he (List.not_mem_nil), fun b got h => ?_⟩, _, rfl⟩
  cases h

end Sys2Proof.Tests
end

section
/-! What `exec` answers, said once: the forms an instruction's meaning takes, what holds at the end of a rule with its
error's action taken, and the inversion of `step`. -/

namespace Sys2Proof.Machine

/-- The forms of an instruction's meaning: the four host commands with a rule of their own, the drawing commands, which
perform one plan in `READY`, and the controller commands, which perform one plan and are no host commands. -/
inductive ExecForm (s : State) : Instr → State → Prop where
  | init : ExecForm s .init (hostCommand (instrLength .init) doInit s)
  | colinit (n : Byte) : ExecForm s (.colinit n) (hostCommand (instrLength (.colinit n)) (doColinit n) s)
  | tick : ExecForm s .tick (hostCommand (instrLength .tick) (needReady doTick) s)
  | reserved (op : Byte) : ExecForm s (.reserved op) (errorAction .illegalOpcode s)
  | drawing (i : Instr) (plan : Config → List Action) :
      ExecForm s i (hostCommand (instrLength i) (needReady fun u => perform (plan u.cfg) u) s)
  | controller (i : Instr) (plan : List Action) : ExecForm s i (settle (perform plan s))

/-- Every instruction has one of the forms, and so answers a next state (R48, R90). -/
theorem exec_form (i : Instr) (s : State) : ∃ t, exec i s = .next t ∧ ExecForm s i t := by
  cases i
  case init => exact ⟨_, rfl, .init⟩
  case colinit n => exact ⟨_, rfl, .colinit n⟩
  case tick => exact ⟨_, rfl, .tick⟩
  case reserved op => exact ⟨_, rfl, .reserved op⟩
  case setwin x0 y0 x1 y1 => exact ⟨_, rfl, .drawing _ fun _ => setWindowPlan x0 y0 x1 y1⟩
  case wrpix color => exact ⟨_, rfl, .drawing _ fun _ => writePixelPlan color⟩
  case fill color => exact ⟨_, rfl, .drawing _ fun _ => fillPlan color⟩
  case clear color => exact ⟨_, rfl, .drawing (.clear color) fun _ => fillPlan color⟩
  case fillscreen color => exact ⟨_, rfl, .drawing (.fillscreen color) fun _ => fillPlan color⟩
  case drawpix x y color => exact ⟨_, rfl, .drawing _ fun _ => drawPixelPlan x y color⟩
  case drawchar x y code fg bg => exact ⟨_, rfl, .drawing _ fun cfg => drawCharPlan cfg x y code fg bg⟩
  case drawstr x y fg bg text => exact ⟨_, rfl, .drawing _ fun cfg => drawStringPlan cfg y fg bg x.toNat text⟩
  all_goals exact ⟨_, rfl, .controller _ _⟩

theorem form_of_exec {i : Instr} {s t : State} (h : exec i s = .next t) : ExecForm s i t := by
  obtain ⟨u, hu, hform⟩ := exec_form i s
  cases hu.symm.trans h
  exact hform

/-- R48: a step that is taken runs the command the decoder reads at `CP` of a block that is not stopped. -/
theorem step_eq_next {s t : State} (h : step s = .next t) :
    s.stopped = false ∧ ∃ i rest, decode (s.stream.drop s.cp) = .ok (i, rest) ∧ exec i s = .next t := by
  unfold step at h
  split at h
  · cases h
  · next hs =>
    split at h
    · next i rest hd => exact ⟨Bool.eq_false_of_not_eq_true hs, i, rest, hd, h⟩
    · cases h
    · cases h

theorem step_of_stopped {s : State} (h : s.stopped = true) : step s = .fault .halted := by
  simp [step, h]

/-! ## The end of a rule, with its error's action taken (R90) -/

theorem settle_andThen {P : State → Prop} {r : Run} {f : State → Run} (hr : P (settle r))
    (hf : ∀ s, P s → P (settle (f s))) : P (settle (r.andThen f)) := by
  cases r with
  | ok s => exact hf s hr
  | raised e s => exact hr

/-- What every round and its error's action keep, the loop and its error's action keep. -/
theorem settle_forEach {α : Type} {P : State → Prop} {body : α → State → Run} {l : List α}
    (h : ∀ a ∈ l, ∀ s, P s → P (settle (body a s))) {s : State} (hs : P s) : P (settle (forEach body l s)) := by
  induction l generalizing s with
  | nil => exact hs
  | cons a l ih =>
    rw [forEach_cons]
    exact settle_andThen (h a List.mem_cons_self s hs) fun t ht =>
      ih (fun b hb => h b (List.mem_cons_of_mem _ hb)) ht

end Sys2Proof.Machine
end

section
/-! `STOPPED` and `NCOLS`: one instruction writes each, and every other leaves both alone. -/

namespace Sys2Proof.Machine

/-- Neither `STOPPED` nor `NCOLS` is written. -/
structure GuardFrame (s t : State) : Prop where
  stopped : t.stopped = s.stopped
  ncols   : t.ncols = s.ncols

theorem GuardFrame.refl (s : State) : GuardFrame s s := ⟨rfl, rfl⟩

theorem GuardFrame.trans {s t u : State} (h : GuardFrame s t) (k : GuardFrame t u) : GuardFrame s u :=
  ⟨k.stopped.trans h.stopped, k.ncols.trans h.ncols⟩

/-- Of the errors only `IllegalOpcode` writes one of the two (R91 to R94). -/
theorem errorAction_guardFrame {e : Error} (he : e ≠ .illegalOpcode) (s : State) :
    GuardFrame s (errorAction e s) := by
  cases e with
  | illegalOpcode => exact absurd rfl he
  | transportFail | stateError | rangeError => exact ⟨rfl, rfl⟩

theorem settle_perform_guardFrame (p : List Action) (s : State) : GuardFrame s (settle (perform p s)) := by
  have hfr := (perform_frame p s).1
  have hkept : GuardFrame s (perform p s).state := ⟨hfr.stopped, hfr.ncols⟩
  cases hp : perform p s with
  | ok t => rwa [hp] at hkept
  | raised e t =>
    cases perform_raises hp
    rw [hp] at hkept
    exact hkept.trans (errorAction_guardFrame (e := .transportFail) (by decide) t)

theorem settle_needReady_guardFrame {body : State → Run} {s : State} (h : GuardFrame s (settle (body s))) :
    GuardFrame s (settle (needReady body s)) := by
  by_cases hs : s.state = .ready
  · rwa [needReady_ready hs]
  · rw [needReady_other hs]
    exact errorAction_guardFrame (e := .stateError) (by decide) s

/-- The cycle's part of a host command (R48) writes neither. -/
theorem hostCommand_guardFrame {len : Nat} {body : State → Run} (h : ∀ u, GuardFrame u (settle (body u)))
    (s : State) : GuardFrame s (hostCommand len body s) :=
  ⟨(h { s with result := .ok }).stopped, (h { s with result := .ok }).ncols⟩

theorem settle_doInit_guardFrame (s : State) : GuardFrame s (settle (doInit s)) := by
  unfold doInit
  split
  · have hp := settle_perform_guardFrame (initPlan s.cfg.initTable) { s with state := .initializing }
    exact settle_andThen (P := GuardFrame s) ⟨hp.stopped, hp.ncols⟩ fun t ht => ⟨ht.stopped, ht.ncols⟩
  · exact errorAction_guardFrame (e := .stateError) (by decide) s

theorem settle_tickColumn_guardFrame (c : Fin 21) (s : State) : GuardFrame s (settle (tickColumn c s)) := by
  rcases tickColumn_cases c s with ⟨-, h⟩ | ⟨-, t, hp, -, h⟩ | ⟨-, t, hp, h⟩ <;> rw [h]
  · exact ⟨rfl, rfl⟩
  · obtain ⟨-, -, hstopped, -, -, hncols, -⟩ := moveHead_frame c t
    exact ⟨hstopped.trans hp.stopped, hncols.trans hp.ncols⟩
  · exact ⟨hp.stopped, hp.ncols⟩

theorem settle_doTick_guardFrame (s : State) : GuardFrame s (settle (doTick s)) :=
  settle_forEach (P := GuardFrame s) (fun c _ u hu => hu.trans (settle_tickColumn_guardFrame c u)) (.refl s)

theorem settle_initColumn_guardFrame (c : Fin 21) (s : State) : GuardFrame s (settle (initColumn c s)) := ⟨rfl, rfl⟩

theorem settle_initColumns_guardFrame (l : List (Fin 21)) (s : State) :
    GuardFrame s (settle (forEach initColumn l s)) :=
  settle_forEach (P := GuardFrame s) (fun c _ u hu => hu.trans (settle_initColumn_guardFrame c u)) (.refl s)

/-- `COLINIT` rejects a count above 21 and otherwise stores it (R79, R94). -/
theorem settle_doColinit (n : Byte) (s : State) :
    (settle (doColinit n s)).stopped = s.stopped ∧
    ((settle (doColinit n s)).ncols = s.ncols ∨
      n.toNat ≤ 21 ∧ (settle (doColinit n s)).ncols = n) := by
  unfold doColinit
  split
  · exact ⟨rfl, .inl rfl⟩
  · next hn =>
    have hcols := settle_initColumns_guardFrame (firstCols n) s
    cases hr : forEach initColumn (firstCols n) s with
    | ok t => rw [hr] at hcols; exact ⟨hcols.stopped, .inr ⟨Nat.le_of_not_lt hn, rfl⟩⟩
    | raised e t => rw [hr] at hcols; exact ⟨hcols.stopped, .inl hcols.ncols⟩

/-- Every instruction but `COLINIT` and the reserved opcodes leaves `STOPPED` and `NCOLS` alone. -/
theorem exec_guardFrame {i : Instr} {s t : State} (hc : ∀ n, i ≠ .colinit n) (hr : ∀ op, i ≠ .reserved op)
    (h : exec i s = .next t) : GuardFrame s t := by
  cases form_of_exec h with
  | init => exact hostCommand_guardFrame settle_doInit_guardFrame s
  | colinit n => exact absurd rfl (hc n)
  | tick => exact hostCommand_guardFrame (fun u => settle_needReady_guardFrame (settle_doTick_guardFrame u)) s
  | reserved op => exact absurd rfl (hr op)
  | drawing i plan =>
    exact hostCommand_guardFrame (fun u => settle_needReady_guardFrame (settle_perform_guardFrame (plan u.cfg) u)) s
  | controller i plan => exact settle_perform_guardFrame plan s

theorem exec_colinit_stopped {n : Byte} {s t : State} (h : exec (.colinit n) s = .next t) : t.stopped = s.stopped := by
  cases h
  exact (settle_doColinit n { s with result := .ok }).1

/-- After `COLINIT` the column count is the old one or a new one of at most 21. -/
theorem exec_colinit_ncols {n : Byte} {s t : State} (h : exec (.colinit n) s = .next t) :
    t.ncols = s.ncols ∨ n.toNat ≤ 21 ∧ t.ncols = n := by
  cases h
  exact (settle_doColinit n { s with result := .ok }).2

theorem exec_reserved {op : Byte} {s t : State} (h : exec (.reserved op) s = .next t) :
    t = errorAction .illegalOpcode s := by
  cases h
  rfl

/-- `STOPPED` after an instruction: kept by all but the reserved opcodes. -/
theorem exec_stopped {i : Instr} {s t : State} (hr : ∀ op, i ≠ .reserved op) (h : exec i s = .next t) :
    t.stopped = s.stopped := by
  by_cases hc : ∃ n, i = .colinit n
  · obtain ⟨n, rfl⟩ := hc
    exact exec_colinit_stopped h
  · exact (exec_guardFrame (not_exists.1 hc) hr h).stopped

/-- `NCOLS` after an instruction: kept by all but `COLINIT` (R21). -/
theorem exec_ncols {i : Instr} {s t : State} (hc : ∀ n, i ≠ .colinit n) (h : exec i s = .next t) :
    t.ncols = s.ncols := by
  by_cases hr : ∃ op, i = .reserved op
  · obtain ⟨op, rfl⟩ := hr
    rw [exec_reserved h]
    rfl
  · exact (exec_guardFrame hc (not_exists.1 hr) h).ncols

theorem exec_ncols_le {i : Instr} {s t : State} (hs : s.ncols.toNat ≤ 21) (h : exec i s = .next t) :
    t.ncols.toNat ≤ 21 := by
  by_cases hc : ∃ n, i = .colinit n
  · obtain ⟨n, rfl⟩ := hc
    obtain hold | ⟨hn, hnew⟩ := exec_colinit_ncols h
    · rwa [hold]
    · rwa [hnew]
  · rwa [exec_ncols (not_exists.1 hc) h]

end Sys2Proof.Machine
end

section
/-! Changes of the state that a command does not see: what it does is the same with the change made before it or after
it. -/

namespace Sys2Proof.Machine

/-- The rule's outcome with its state changed by `g`. -/
def Run.map (g : State → State) : Run → Run
  | .ok s => .ok (g s)
  | .raised e s => .raised e (g s)

/-- `body` does the same whether `g` changes the state before it or after it. -/
def Blind (g : State → State) (body : State → Run) : Prop := ∀ s, body (g s) = (body s).map g

/-- `g` changes nothing that performing a plan, drawing and ending a command read or write. -/
structure Unseen (g : State → State) : Prop where
  setLine     : ∀ w s, (g s).setLine w = g (s.setLine w)
  emit        : ∀ e s, (g s).emit e = g (s.emit e)
  reply       : ∀ s, (g s).replyAt (g s).txCount = s.replyAt s.txCount
  txOk        : ∀ bs s, (g s).txOk bs = g (s.txOk bs)
  txFail      : ∀ bs n s, (g s).txFail bs n = g (s.txFail bs n)
  nextDraw    : ∀ l s, (g s).nextDraw l = s.nextDraw l
  afterDraw   : ∀ l s, (g s).afterDraw l = g (s.afterDraw l)
  cfg         : ∀ s, (g s).cfg = s.cfg
  ready       : ∀ s, (g s).state = s.state
  result      : ∀ r s, { g s with result := r } = g { s with result := r }
  moveCp      : ∀ n s, { g s with cp := (g s).cp + n } = g { s with cp := s.cp + n }
  errorAction : ∀ e s, errorAction e (g s) = g (errorAction e s)

/-- And nothing of column `c`. -/
structure UnseenAt (c : Fin 21) (g : State → State) : Prop extends Unseen g where
  col    : ∀ s, (g s).col c = s.col c
  setCol : ∀ k s, (g s).setCol c k = g (s.setCol c k)

variable {g : State → State}

theorem Blind.andThen {r : Run} {f : State → Run} (hf : Blind g f) : (r.map g).andThen f = (r.andThen f).map g := by
  cases r with
  | ok s => exact hf s
  | raised e s => rfl

theorem Blind.forEach {α : Type} {body : α → State → Run} {l : List α} (h : ∀ a ∈ l, Blind g (body a)) :
    Blind g (forEach body l) := by
  induction l with
  | nil => exact fun s => rfl
  | cons a l ih =>
    intro s
    rw [forEach_cons, h a List.mem_cons_self s, forEach_cons]
    exact (ih fun b hb => h b (List.mem_cons_of_mem _ hb)).andThen

namespace Unseen

theorem perform (hg : Unseen g) (p : List Action) : Blind g (perform p) := by
  intro s
  induction p generalizing s with
  | nil => rfl
  | cons a p ih =>
    cases a with
    | setLine w => simp only [Machine.perform, hg.setLine, ih]
    | delay n => simp only [Machine.perform, hg.emit, ih]
    | tx bs =>
      simp only [Machine.perform, hg.reply, hg.txOk, hg.txFail]
      cases s.replyAt s.txCount with
      | ok => exact ih _
      | fail n => rfl

theorem needReady (hg : Unseen g) {body : State → Run} (hb : Blind g body) : Blind g (needReady body) := by
  intro s
  by_cases hs : s.state = .ready
  · rw [needReady_ready hs, needReady_ready ((hg.ready s).trans hs), hb]
  · rw [needReady_other hs, needReady_other (hg.ready s ▸ hs)]
    rfl

theorem settle (hg : Unseen g) (r : Run) : settle (r.map g) = g (settle r) := by
  cases r with
  | ok s => rfl
  | raised e s => exact hg.errorAction e s

theorem hostCommand (hg : Unseen g) {len : Nat} {body : State → Run} (hb : Blind g body) (s : State) :
    hostCommand len body (g s) = g (hostCommand len body s) := by
  simp only [Machine.hostCommand, hg.result, hb { s with result := .ok }, hg.settle, hg.moveCp]

end Unseen

/-! ## One column's part of a tick -/

namespace UnseenAt

variable {c : Fin 21}

theorem paintCell (hg : UnseenAt c g) (i : Nat) : Blind g (paintCell c i) := by
  intro s
  simp only [Machine.paintCell, hg.col, hg.nextDraw, hg.afterDraw, hg.cfg]
  split
  · exact hg.perform _ _
  · rfl

theorem paintTail (hg : UnseenAt c g) (i : Nat) : Blind g (paintTail c i) := by
  induction i with
  | zero => exact hg.paintCell 0
  | succ i ih =>
    intro s
    simp only [Machine.paintTail, hg.paintCell (i + 1) s]
    exact ih.andThen

theorem moveHead (hg : UnseenAt c g) (s : State) : moveHead c (g s) = g (moveHead c s) := by
  simp only [Machine.moveHead, respawn, hg.col, hg.setCol, hg.nextDraw, hg.afterDraw]
  split <;> rfl

theorem advance (hg : UnseenAt c g) : Blind g (advance c) := by
  intro s
  have hmove : Blind g fun t => .ok (Machine.moveHead c t) := fun t => congrArg Run.ok (hg.moveHead t)
  simp only [Machine.advance, hg.col, hg.paintTail _ s]
  exact hmove.andThen

theorem tickColumn (hg : UnseenAt c g) : Blind g (tickColumn c) := by
  intro s
  simp only [Machine.tickColumn, hg.col, hg.setCol]
  split
  · exact hg.advance _
  · rfl

end UnseenAt

/-! ## A column `TICK` does not visit -/

theorem State.setCol_comm {c d : Fin 21} (h : c ≠ d) (j k : Column) (s : State) :
    (s.setCol d k).setCol c j = (s.setCol c j).setCol d k := by
  simp [State.setCol, Vector.set_comm _ _ (Fin.val_ne_of_ne h.symm)]

theorem State.setCol_col (c : Fin 21) (s : State) : s.setCol c (s.col c) = s := by
  simp [State.setCol, State.col]

theorem unseen_setCol (d : Fin 21) (k : Column) : Unseen (State.setCol d k) where
  setLine _ _ := rfl
  emit _ _ := rfl
  reply _ := rfl
  txOk _ _ := rfl
  txFail _ _ _ := rfl
  nextDraw _ _ := rfl
  afterDraw _ _ := rfl
  cfg _ := rfl
  ready _ := rfl
  result _ _ := rfl
  moveCp _ _ := rfl
  errorAction e _ := by cases e <;> rfl

theorem unseenAt_setCol {c d : Fin 21} (h : c ≠ d) (k : Column) : UnseenAt c (State.setCol d k) where
  toUnseen := unseen_setCol d k
  col s := State.col_setCol_other s k h
  setCol j s := State.setCol_comm h j k s

/-- R21: the loop of a tick over the columns below `NCOLS` does not see a column at or beyond it. -/
theorem forEach_tickColumn_blind {n : Byte} {d : Fin 21} (hd : n.toNat ≤ d.val) (k : Column) :
    Blind (State.setCol d k) (forEach tickColumn (firstCols n)) := by
  refine Blind.forEach fun c hc => (unseenAt_setCol ?_ k).tickColumn
  rintro rfl
  exact absurd (mem_firstCols.1 hc) (Nat.not_lt.2 hd)

/-- A tick's loop visits the columns below the `NCOLS` it begins with. -/
theorem hostCommand_doTick (len : Nat) (s : State) :
    hostCommand len (needReady doTick) s = hostCommand len (needReady (forEach tickColumn (firstCols s.ncols))) s := rfl

/-- A tick that begins in `s` with column `d` replaced ends as it does from `s`, with column `d` replaced. -/
theorem exec_tick_setCol {s t : State} {d : Fin 21} (hd : s.ncols.toNat ≤ d.val) (k : Column)
    (h : exec .tick s = .next t) : exec .tick (s.setCol d k) = .next (t.setCol d k) := by
  cases h
  have hloop := (unseen_setCol d k).needReady (forEach_tickColumn_blind hd k)
  refine congrArg Host.Outcome.next ?_
  rw [hostCommand_doTick, hostCommand_doTick, State.setCol_ncols, (unseen_setCol d k).hostCommand hloop]

/-- A tick that does not see the column does not write it: replacing the column by itself changes nothing, so the tick
ends with the column replaced by itself too. -/
theorem exec_tick_col {s t : State} {d : Fin 21} (hd : s.ncols.toNat ≤ d.val) (h : exec .tick s = .next t) :
    t.col d = s.col d := by
  have hset := exec_tick_setCol hd (s.col d) h
  rw [State.setCol_col, h] at hset
  have ht : t = t.setCol d (s.col d) := Host.Outcome.next.inj hset
  rw [ht, State.col_setCol_same]

end Sys2Proof.Machine
end

section
/-! Which commands the decoder answers: the formats of R50, and the bytes that decode to a reserved opcode. -/

namespace Sys2Proof.Machine

theorem decodeFN_ok {mk : Byte → Instr} {op : Byte} {bs : List Byte} {i : Instr} {rest : List Byte}
    (h : decodeFN mk op bs = .ok (i, rest)) : ∃ n, i = mk n := by
  unfold decodeFN at h
  split at h <;> cases h
  exact ⟨_, rfl⟩

theorem decodeFC_ok {mk : Half → Instr} {op : Byte} {bs : List Byte} {i : Instr} {rest : List Byte}
    (h : decodeFC mk op bs = .ok (i, rest)) : ∃ color, i = mk color := by
  unfold decodeFC at h
  split at h <;> cases h
  exact ⟨_, rfl⟩

theorem decodeFP_ok {mk : Half → Half → Half → Instr} {op : Byte} {bs : List Byte} {i : Instr} {rest : List Byte}
    (h : decodeFP mk op bs = .ok (i, rest)) : ∃ x y color, i = mk x y color := by
  unfold decodeFP at h
  split at h <;> cases h
  exact ⟨_, _, _, rfl⟩

theorem decodeFW_ok {mk : Half → Half → Half → Half → Instr} {op : Byte} {bs : List Byte} {i : Instr}
    {rest : List Byte} (h : decodeFW mk op bs = .ok (i, rest)) : ∃ x0 y0 x1 y1, i = mk x0 y0 x1 y1 := by
  unfold decodeFW at h
  split at h <;> cases h
  exact ⟨_, _, _, _, rfl⟩

theorem decodeFG_ok {mk : Half → Half → Byte → Half → Half → Instr} {op : Byte} {bs : List Byte} {i : Instr}
    {rest : List Byte} (h : decodeFG mk op bs = .ok (i, rest)) : ∃ x y code fg bg, i = mk x y code fg bg := by
  unfold decodeFG at h
  split at h <;> cases h
  exact ⟨_, _, _, _, _, rfl⟩

theorem decodeFS_ok {mk : Half → Half → Half → Half → List Byte → Instr} {op : Byte} {bs : List Byte} {i : Instr}
    {rest : List Byte} (h : decodeFS mk op bs = .ok (i, rest)) : ∃ x y fg bg text, i = mk x y fg bg text := by
  unfold decodeFS at h
  split at h
  · split at h <;> cases h
    exact ⟨_, _, _, _, _, rfl⟩
  · cases h

/-- R53: an assigned opcode and its command. -/
theorem reserved_iff_of_assigned {i : Instr} {op : Byte} (hi : ∀ b, i ≠ .reserved b)
    (hop : reservedOpcode op = false) : (∃ b, i = .reserved b) ↔ reservedOpcode op = true :=
  iff_of_false (fun ⟨b, hb⟩ => hi b hb) (by simp [hop])

/-- R53, R54: the decoder answers a reserved opcode exactly where the opcode byte is unassigned. -/
theorem decode_reserved_iff {op : Byte} {bs : List Byte} {i : Instr} {rest : List Byte}
    (h : decode (op :: bs) = .ok (i, rest)) : (∃ b, i = .reserved b) ↔ reservedOpcode op = true := by
  simp only [decode] at h
  split_ifs at h with h1 h2 h3 h4 h5 h6 h7 h8 h9
  · cases h
    exact reserved_iff_of_assigned nofun (h1 ▸ rfl)
  · obtain ⟨x0, y0, x1, y1, rfl⟩ := decodeFW_ok h
    exact reserved_iff_of_assigned nofun (h2 ▸ rfl)
  · obtain ⟨color, rfl⟩ := decodeFC_ok h
    exact reserved_iff_of_assigned nofun (h3 ▸ rfl)
  · obtain ⟨color, rfl⟩ := decodeFC_ok h
    exact reserved_iff_of_assigned nofun (h4 ▸ rfl)
  · obtain ⟨x, y, color, rfl⟩ := decodeFP_ok h
    exact reserved_iff_of_assigned nofun (h5 ▸ rfl)
  · obtain ⟨x, y, code, fg, bg, rfl⟩ := decodeFG_ok h
    exact reserved_iff_of_assigned nofun (h6 ▸ rfl)
  · obtain ⟨x, y, fg, bg, text, rfl⟩ := decodeFS_ok h
    exact reserved_iff_of_assigned nofun (h7 ▸ rfl)
  · obtain ⟨n, rfl⟩ := decodeFN_ok h
    exact reserved_iff_of_assigned nofun (h8 ▸ rfl)
  · cases h
    exact reserved_iff_of_assigned nofun (h9 ▸ rfl)
  · cases h
    refine iff_of_true ⟨op, rfl⟩ ?_
    simp only [opInit, opSetwin, opWrpix, opFill, opDrawpix, opDrawchar, opDrawstr, opColinit, opTick]
      at h1 h2 h3 h4 h5 h6 h7 h8 h9
    simp only [reservedOpcode, Bool.or_eq_true, decide_eq_true_eq]
    bv_omega

/-- The same of a stream read at `CP`. -/
theorem decode_drop_reserved_iff {stream : List Byte} {cp : Nat} {i : Instr} {rest : List Byte}
    (h : decode (stream.drop cp) = .ok (i, rest)) :
    (∃ b, i = .reserved b) ↔ ∃ op, stream[cp]? = some op ∧ (op.toNat = 0 ∨ 0x0A ≤ op.toNat) := by
  rw [← List.head?_drop]
  cases hbs : stream.drop cp with
  | nil => rw [hbs] at h; cases h
  | cons op bs =>
    rw [hbs] at h
    simp [decode_reserved_iff h, reservedOpcode]

end Sys2Proof.Machine
end

section
/-! The bit fields of the two packed status registers (R24). -/

namespace Sys2Proof.Machine

theorem statusByte_state (st : Lifecycle) (stopped : Bool) (res : ResultCode) :
    (statusByte st stopped res).extractLsb' 0 2 = stateCode st :=
  BitVec.extractLsb'_append_eq_right

theorem statusByte_stopped (st : Lifecycle) (stopped : Bool) (res : ResultCode) :
    (statusByte st stopped res).getLsbD 2 = stopped := by
  simp only [statusByte, BitVec.getLsbD_append]
  cases stopped <;> rfl

theorem statusByte_result (st : Lifecycle) (stopped : Bool) (res : ResultCode) :
    (statusByte st stopped res).extractLsb' 3 3 = resultCode res := by
  rw [statusByte, BitVec.extractLsb'_append_eq_of_le (by decide), BitVec.extractLsb'_append_eq_of_le (by decide)]
  exact BitVec.extractLsb'_append_eq_right

theorem statusByte_unused (st : Lifecycle) (stopped : Bool) (res : ResultCode) :
    (statusByte st stopped res).extractLsb' 6 2 = 0 := by
  rw [statusByte, BitVec.extractLsb'_append_eq_of_le (by decide), BitVec.extractLsb'_append_eq_of_le (by decide)]
  exact BitVec.extractLsb'_append_eq_left

theorem linesByte_rst (l : Lines) : (linesByte l).getLsbD 0 = true ↔ l.rst = .asserted := by
  simp only [linesByte, BitVec.getLsbD_append]
  change (rstBit l.rst).getLsbD 0 = true ↔ _
  cases l.rst <;> decide

theorem linesByte_dc (l : Lines) : (linesByte l).getLsbD 1 = true ↔ l.dc = .data := by
  simp only [linesByte, BitVec.getLsbD_append]
  change (dcBit l.dc).getLsbD 0 = true ↔ _
  cases l.dc <;> decide

theorem linesByte_cs (l : Lines) : (linesByte l).getLsbD 2 = true ↔ l.cs = .selected := by
  simp only [linesByte, BitVec.getLsbD_append]
  change (csBit l.cs).getLsbD 0 = true ↔ _
  cases l.cs <;> decide

theorem linesByte_unused (l : Lines) : (linesByte l).extractLsb' 3 5 = 0 := by
  rw [linesByte, BitVec.extractLsb'_append_eq_of_le (by decide), BitVec.extractLsb'_append_eq_of_le (by decide)]
  exact BitVec.extractLsb'_append_eq_left

theorem readStatus_other {n : Byte} (hn : 3 ≤ n.toNat) (s : State) : s.readStatus n = 0x00 := by
  have h0 : n ≠ 0x00 := by rintro rfl; exact absurd hn (by decide)
  have h1 : n ≠ 0x01 := by rintro rfl; exact absurd hn (by decide)
  have h2 : n ≠ 0x02 := by rintro rfl; exact absurd hn (by decide)
  rw [State.readStatus, if_neg h0, if_neg h1, if_neg h2]

end Sys2Proof.Machine
end

section
/-! The statements of 10_state.md settled here. -/

namespace Sys2Proof.Machine

/-- Settles O40: `COLINIT` alone writes `NCOLS`, and only with a count of at most 21; the loop of a tick visits the
columns below `NCOLS` and no round of it sees another column. -/
theorem inactiveColumnsAreNeverTouched : Obligations.InactiveColumnsAreNeverTouched := by
  refine ⟨fun s t hs h => ?_, fun i s t hi h => exec_ncols hi h, fun s c v hc => ?_⟩
  · obtain ⟨-, i, rest, -, hexec⟩ := step_eq_next h
    exact exec_ncols_le hs hexec
  · obtain ⟨t, ht, -⟩ := exec_form .tick s
    exact ⟨t, ht, exec_tick_col hc ht, exec_tick_setCol hc v ht⟩

/-- Settles O50: a step is taken in a block that is not stopped, and only a reserved opcode, which the decoder answers
exactly at an unassigned byte, writes `STOPPED`. -/
theorem onlyAReservedOpcodeSetsStopped : Obligations.OnlyAReservedOpcodeSetsStopped := by
  refine ⟨fun s hs => step_of_stopped hs, fun s t h => ?_, fun i s t hs h => ?_, fun s => rfl⟩
  · obtain ⟨hs, i, rest, hdec, hexec⟩ := step_eq_next h
    rw [← decode_drop_reserved_iff hdec]
    by_cases hr : ∃ op, i = .reserved op
    · obtain ⟨op, rfl⟩ := hr
      exact iff_of_true (exec_reserved hexec ▸ rfl) ⟨op, rfl⟩
    · refine iff_of_false ?_ hr
      rw [exec_stopped (not_exists.1 hr) hexec, hs]
      exact Bool.false_ne_true
  · by_cases hr : ∃ op, i = .reserved op
    · obtain ⟨op, rfl⟩ := hr
      exact exec_reserved h ▸ rfl
    · exact (exec_stopped (not_exists.1 hr) h).trans hs

/-- Settles O11, field by field of the packed bytes. -/
theorem statusRegistersReadTheState : Obligations.StatusRegistersReadTheState := by
  refine ⟨fun s => ⟨?_, statusByte_stopped _ _ _, ?_, statusByte_unused _ _ _, linesByte_rst _, linesByte_dc _,
    linesByte_cs _, linesByte_unused _, rfl, fun n hn => readStatus_other hn s⟩,
    fun s t n hstate hstopped hresult hlines hncols => ?_⟩
  · exact (statusByte_state _ _ _).trans (by cases s.state <;> rfl)
  · exact (statusByte_result _ _ _).trans (by cases s.result <;> rfl)
  · simp only [State.readStatus, hstate, hstopped, hresult, hlines, hncols]

end Sys2Proof.Machine
end

section
/-! What every instruction keeps of the state it starts from: the parameters, the supplied stream, the environment and
the trace so far (R28, R38, R47). -/

namespace Sys2Proof.Machine

/-- `t` has the configuration, the stream and the environment of `s`, and its trace begins with that of `s`; the log
lists the newest event first, so there the events of `s` are a suffix. -/
structure Extends (s t : State) : Prop where
  cfg    : t.cfg = s.cfg
  stream : t.stream = s.stream
  env    : t.env = s.env
  log    : s.log <:+ t.log

namespace Extends

theorem refl (s : State) : Extends s s := ⟨rfl, rfl, rfl, List.suffix_refl s.log⟩

theorem trans {s t u : State} (h : Extends s t) (k : Extends t u) : Extends s u :=
  ⟨k.cfg.trans h.cfg, k.stream.trans h.stream, k.env.trans h.env, h.log.trans k.log⟩

/-- The same in the order of R28: the trace has only been added to. -/
theorem trace {s t : State} (h : Extends s t) : ∃ evs, t.trace = s.trace ++ evs := by
  obtain ⟨new, hnew⟩ := h.log
  exact ⟨new.reverse, by simp only [State.trace, ← hnew, List.reverse_append]⟩

end Extends

/-! ## The primitives and the errors -/

theorem txFail_extends (bs : List Byte) (n : Nat) (s : State) : Extends s (s.txFail bs n) :=
  ⟨rfl, rfl, rfl, List.suffix_cons _ _⟩

theorem afterDraw_extends (l : List Nat) (s : State) : Extends s (s.afterDraw l) :=
  ⟨rfl, rfl, rfl, List.suffix_cons _ _⟩

theorem setCol_extends (c : Fin 21) (k : Column) (s : State) : Extends s (s.setCol c k) :=
  ⟨rfl, rfl, rfl, List.suffix_refl _⟩

/-- Only `TransportFail` makes an event, the deselection of the controller (R91). -/
theorem errorAction_extends (e : Error) (s : State) : Extends s (errorAction e s) := by
  cases e with
  | transportFail => exact ⟨rfl, rfl, rfl, List.suffix_cons _ _⟩
  | stateError | illegalOpcode | rangeError => exact ⟨rfl, rfl, rfl, List.suffix_refl _⟩

theorem settle_extends {s : State} {r : Run} (h : Extends s r.state) : Extends s (settle r) := by
  cases r with
  | ok t => exact h
  | raised e t => exact h.trans (errorAction_extends e t)

/-! ## The rules -/

theorem afterPlan_extends (p : List Action) (s : State) : Extends s (s.afterPlan p) :=
  ⟨State.afterPlan_cfg p s, State.afterPlan_stream p s, State.afterPlan_env p s,
    State.afterPlan_log p s ▸ List.suffix_append _ _⟩

theorem perform_extends (p : List Action) (s : State) : Extends s (perform p s).state := by
  rcases perform_cases p s with ⟨-, h⟩ | ⟨q, bs, r, n, -, -, -, h⟩ <;> rw [h]
  · exact afterPlan_extends p s
  · exact (afterPlan_extends q s).trans (txFail_extends bs n _)

/-- A loop keeps what each of its rounds keeps. -/
theorem forEach_extends {α : Type} {body : α → State → Run} (h : ∀ a s, Extends s (body a s).state) (l : List α)
    (s : State) : Extends s (forEach body l s).state :=
  forEach_keeps (P := Extends s) (fun a _ t ht => ht.trans (h a t)) (.refl s)

theorem doInit_extends (s : State) : Extends s (doInit s).state := by
  unfold doInit
  split
  · have hp := perform_extends (initPlan s.cfg.initTable) { s with state := .initializing }
    exact Run.andThen_state (P := Extends s) ⟨hp.cfg, hp.stream, hp.env, hp.log⟩
      fun t ht => ⟨ht.cfg, ht.stream, ht.env, ht.log⟩
  · exact .refl s

theorem initColumn_extends (c : Fin 21) (s : State) : Extends s (initColumn c s).state :=
  (afterDraw_extends headChoices s).trans <| (afterDraw_extends tailChoices _).trans <|
    (afterDraw_extends speedChoices _).trans <| (afterDraw_extends fcChoices _).trans <| setCol_extends c _ _

theorem doColinit_extends (n : Byte) (s : State) : Extends s (doColinit n s).state := by
  unfold doColinit
  split
  · exact .refl s
  · exact Run.andThen_state (P := Extends s) (forEach_extends initColumn_extends _ s)
      fun t ht => ⟨ht.cfg, ht.stream, ht.env, ht.log⟩

/-! ## One column's part of a tick -/

theorem paintCell_extends (c : Fin 21) (i : Nat) (s : State) : Extends s (paintCell c i s).state := by
  simp only [paintCell]
  split
  · exact (afterDraw_extends _ s).trans (perform_extends _ _)
  · exact .refl s

theorem paintTail_extends (c : Fin 21) (i : Nat) (s : State) : Extends s (paintTail c i s).state := by
  induction i generalizing s with
  | zero => exact paintCell_extends c 0 s
  | succ i ih => exact Run.andThen_state (paintCell_extends c (i + 1) s) fun t ht => ht.trans (ih t)

theorem respawn_extends (c : Fin 21) (s : State) : Extends s (respawn c s) :=
  (afterDraw_extends tailChoices s).trans <| (afterDraw_extends speedChoices _).trans <| setCol_extends c _ _

theorem moveHead_extends (c : Fin 21) (s : State) : Extends s (moveHead c s) := by
  simp only [moveHead]
  split
  · exact (setCol_extends c _ s).trans (respawn_extends c _)
  · exact setCol_extends c _ s

theorem advance_extends (c : Fin 21) (s : State) : Extends s (advance c s).state :=
  Run.andThen_state (paintTail_extends c _ s) fun t ht => ht.trans (moveHead_extends c t)

theorem tickColumn_extends (c : Fin 21) (s : State) : Extends s (tickColumn c s).state := by
  simp only [tickColumn]
  split
  · exact (setCol_extends c _ s).trans (advance_extends c _)
  · exact setCol_extends c _ s

theorem doTick_extends (s : State) : Extends s (doTick s).state :=
  forEach_extends tickColumn_extends (firstCols s.ncols) s

/-! ## The instructions -/

theorem needReady_extends {body : State → Run} (h : ∀ u, Extends u (body u).state) (s : State) :
    Extends s (needReady body s).state := by
  by_cases hs : s.state = .ready
  · rw [needReady_ready hs]
    exact h s
  · rw [needReady_other hs]
    exact .refl s

/-- The cycle's part of a host command writes `RESULT` and `CP` (R48). -/
theorem hostCommand_extends {len : Nat} {body : State → Run} (h : ∀ u, Extends u (body u).state) (s : State) :
    Extends s (hostCommand len body s) := by
  have hrule := settle_extends (h { s with result := .ok })
  exact ⟨hrule.cfg, hrule.stream, hrule.env, hrule.log⟩

theorem exec_extends {i : Instr} {s t : State} (h : exec i s = .next t) : Extends s t := by
  cases form_of_exec h with
  | init => exact hostCommand_extends doInit_extends s
  | colinit n => exact hostCommand_extends (doColinit_extends n) s
  | tick => exact hostCommand_extends (needReady_extends doTick_extends) s
  | reserved op => exact errorAction_extends .illegalOpcode s
  | drawing i plan => exact hostCommand_extends (needReady_extends fun u => perform_extends (plan u.cfg) u) s
  | controller i plan => exact settle_extends (perform_extends plan s)

end Sys2Proof.Machine
end

section
/-! The statement of 20_memory.md settled here. -/

namespace Sys2Proof.Machine

/-- Settles O46: the primitives every meaning is written with keep the three fields and only put events on the log, and
so does every rule and every error's action. -/
theorem streamTableAndTraceAreKept : Obligations.StreamTableAndTraceAreKept := by
  intro i s t h
  have hext := exec_extends h
  exact ⟨hext.cfg, hext.stream, hext.env, hext.trace⟩

end Sys2Proof.Machine
end

section
/-! A drawing command whose transfers the transport all answers with `OK`: its effect field by field, and the line
states the window and the pixel leave (R64, R66). -/

namespace Sys2Proof.Machine

/-- The whole effect of performing the plan in `READY`: the plan's events and transfers, the lines the plan leaves,
`RESULT = OK` and `CP` past the command; only the controller is left out. -/
theorem planCommand_sends {len : Nat} {plan : List Action} {body : State → Run} {s : State} (hs : s.state = .ready)
    (hb : body { s with result := .ok } = perform plan { s with result := .ok })
    (hr : s.repliesOk (planTransfers plan)) :
    let t := hostCommand len (needReady body) s
    t.trace = s.trace ++ planEvents plan ∧ t.result = .ok ∧ t.state = .ready ∧ t.cp = s.cp + len ∧
    t.txCount = s.txCount + planTransfers plan ∧ t.lines = (s.afterPlan plan).lines ∧ PanelFrame s t := by
  intro t
  have ht : t = { State.afterPlan plan { s with result := .ok } with cp := s.cp + len } :=
    planCommand_of_repliesOk hs hb hr
  obtain ⟨hframe, hstate, hresult, -⟩ := State.afterPlan_frame plan { s with result := .ok }
  rw [ht]
  refine ⟨State.afterPlan_trace plan _, hresult, hstate.trans hs, rfl, State.afterPlan_txCount plan _, ?_, ?_⟩
  · simp only [State.afterPlan_lines]
  · exact ⟨hframe.stopped, hframe.ncols, hframe.cols, hframe.stream, hframe.drawCount, hframe.env, hframe.cfg⟩

/-- `DoSetWindow` ends with the memory-write command, which leaves DC in the command state (R30, R64). -/
@[simp] theorem afterPlan_setWindow_lines (x0 y0 x1 y1 : Half) (s : State) :
    (s.afterPlan (setWindowPlan x0 y0 x1 y1)).lines = { s.lines with dc := .command } := rfl

/-- A pixel is data, which leaves DC in the data state (R31, R66). -/
@[simp] theorem afterPlan_writePixel_lines (c : Half) (s : State) :
    (s.afterPlan (writePixelPlan c)).lines = { s.lines with dc := .data } := rfl

end Sys2Proof.Machine
end

section
/-! The statements of 41_addressing.md settled here. -/

namespace Sys2Proof.Machine

/-- Settles O19: the rule performs `DoSetWindow`'s plan, whose events are the ten of R64 and whose transfers are five
for every window. -/
theorem setwinSendsTheWindow : Obligations.SetwinSendsTheWindow := by
  intro x0 y0 x1 y1 s hs hr
  have hsent := planCommand_sends (len := instrLength (.setwin x0 y0 x1 y1)) (plan := setWindowPlan x0 y0 x1 y1)
    hs rfl hr
  rw [planEvents_setWindow, planTransfers_setWindow, afterPlan_setWindow_lines] at hsent
  exact ⟨_, rfl, hsent⟩

/-- Settles O21: the rule performs `DoWritePixel`'s plan, one data transfer of the colour's two bytes. -/
theorem wrpixSendsOnePixel : Obligations.WrpixSendsOnePixel := by
  intro color s hs hr
  have hsent := planCommand_sends (len := instrLength (.wrpix color)) (plan := writePixelPlan color) hs rfl hr
  rw [planEvents_writePixel, planTransfers_writePixel, afterPlan_writePixel_lines] at hsent
  exact ⟨_, rfl, hsent⟩

end Sys2Proof.Machine
end

section
/-! The pixel painter's plan on the panel (R71): its lines, events and transfers; and the statement of 42_painter.md settled here. -/

namespace Sys2Proof.Machine

/-- A drawn pixel ends with its data transfer, which leaves DC in the data state (R31, R71). -/
theorem afterPlan_drawPixel_lines {x y : Half} (c : Half) (s : State) (hx : x.toNat < 128) (hy : y.toNat < 160) :
    (s.afterPlan (drawPixelPlan x y c)).lines = { s.lines with dc := .data } := by
  rw [drawPixelPlan_inside c hx hy, State.afterPlan_append, afterPlan_writePixel_lines, afterPlan_setWindow_lines]

/-- On the panel a pixel is the 1x1 window's ten events and the pixel's two (R71). -/
theorem planEvents_drawPixel {x y : Half} (c : Half) (hx : x.toNat < 128) (hy : y.toNat < 160) :
    planEvents (drawPixelPlan x y c) = pixelSent x y c := by
  rw [drawPixelPlan_inside c hx hy, planEvents_append, planEvents_setWindow, planEvents_writePixel, pixelSent]

/-- On the panel a pixel costs the window's five transfers and one more (R71). -/
theorem planTransfers_drawPixel {x y : Half} (c : Half) (hx : x.toNat < 128) (hy : y.toNat < 160) :
    planTransfers (drawPixelPlan x y c) = 6 := by
  rw [drawPixelPlan_inside c hx hy, planTransfers_append, planTransfers_setWindow, planTransfers_writePixel]

/-- Settles O27: on the panel the rule performs the window's plan and then the pixel's; off it the plan is empty, so
the command is a silent no-op (R95). -/
theorem drawpixSendsOnePixelOrNothing : Obligations.DrawpixSendsOnePixelOrNothing := by
  constructor
  · intro x y c s hs hx hy hr
    have hsix := planTransfers_drawPixel c hx hy
    have hsent := planCommand_sends (len := instrLength (.drawpix x y c)) (plan := drawPixelPlan x y c) hs rfl
      (hsix.symm ▸ hr)
    rw [planEvents_drawPixel c hx hy, hsix, afterPlan_drawPixel_lines c s hx hy, pixelSent,
      ← List.append_assoc] at hsent
    exact ⟨_, rfl, hsent⟩
  · intro x y c s hs hout
    have hsilent := silentCommand (len := instrLength (.drawpix x y c)) (body := perform (drawPixelPlan x y c)) hs
      (by rw [drawPixelPlan_outside c hout, perform])
    exact congrArg Host.Outcome.next hsilent

end Sys2Proof.Machine
end

section
/-! The s16 arithmetic of a column (R22): a sum or difference that fits in s16 is exact, and on legal values
(R85) a column's are. -/

namespace Sys2Proof.Machine

theorem half_toInt_add {a b : Half} (hlo : -32768 ≤ a.toInt + b.toInt) (hhi : a.toInt + b.toInt < 32768) :
    (a + b).toInt = a.toInt + b.toInt := by
  rw [BitVec.toInt_add]
  exact Int.bmod_eq_of_le hlo hhi

theorem half_toInt_sub {a b : Half} (hlo : -32768 ≤ a.toInt - b.toInt) (hhi : a.toInt - b.toInt < 32768) :
    (a - b).toInt = a.toInt - b.toInt := by
  rw [BitVec.toInt_sub]
  exact Int.bmod_eq_of_le hlo hhi

theorem half_toInt_ofNat {n : Nat} (h : n < 32768) : (BitVec.ofNat 16 n).toInt = n := by
  have hnat : (BitVec.ofNat 16 n).toNat = n := Nat.mod_eq_of_lt (by omega)
  rw [BitVec.toInt_eq_toNat_of_lt (by omega), hnat]

theorem zext16_toInt (b : Byte) : (zext16 b).toInt = b.toNat := by
  rw [zext16, BitVec.toInt_setWidth]
  exact Int.bmod_eq_of_le (by omega) (by omega)

/-! ## On legal values -/

namespace columnLegal

variable {c : Column}

/-- R81: the row at distance `i` from the head. -/
theorem row_toInt (h : columnLegal c) {i : Nat} (hi : i ≤ c.tail.toNat) :
    (c.head - BitVec.ofNat 16 i).toInt = c.head.toInt - i := by
  obtain ⟨-, htail, -, -, -, -, hhead0, hhead⟩ := h
  have hdist := half_toInt_ofNat (n := i) (by omega)
  rw [half_toInt_sub (by omega) (by omega), hdist]

/-- R81: the moved head. -/
theorem movedHead_toInt (h : columnLegal c) : (c.head + 1).toInt = c.head.toInt + 1 := by
  obtain ⟨-, htail, -, -, -, -, hhead0, hhead⟩ := h
  have hone : (1 : Half).toInt = 1 := by decide
  rw [half_toInt_add (by omega) (by omega), hone]

/-- R80: the counter, counted down. -/
theorem countDown_toInt (h : columnLegal c) : (c.fc - 1).toInt = c.fc.toInt - 1 := by
  obtain ⟨-, -, -, -, hfc0, hfc, -, -⟩ := h
  have hone : (1 : Half).toInt = 1 := by decide
  rw [half_toInt_sub (by omega) (by omega), hone]

/-- R82: the end of the tail, once the head has moved. -/
theorem tailEnd_toInt (h : columnLegal c) :
    (c.head + 1 - zext16 c.tail).toInt = c.head.toInt + 1 - c.tail.toNat := by
  have hmoved := h.movedHead_toInt
  have hzext := zext16_toInt c.tail
  obtain ⟨-, htail, -, -, -, -, hhead0, hhead⟩ := h
  rw [half_toInt_sub (by omega) (by omega), hmoved, hzext]

/-! ## The changes of a column (R79 to R82) -/

/-- R80: a counter that stays above zero. -/
theorem countDown (h : columnLegal c) (hd : ¬ columnDue c) : columnLegal { c with fc := c.fc - 1 } := by
  have hfc := h.countDown_toInt
  have hpos : 0 < (c.fc - 1).toInt := not_le.1 hd
  obtain ⟨htail4, htail13, hspeed1, hspeed3, -, hfc9, hhead0, hhead⟩ := h
  exact ⟨htail4, htail13, hspeed1, hspeed3, hpos.le, by dsimp only; omega, hhead0, hhead⟩

/-- R80: the counter reset to the speed. -/
theorem resetCounter (h : columnLegal c) : columnLegal { c with fc := zext16 c.speed } := by
  have hfc := zext16_toInt c.speed
  obtain ⟨htail4, htail13, hspeed1, hspeed3, -, -, hhead0, hhead⟩ := h
  exact ⟨htail4, htail13, hspeed1, hspeed3, by dsimp only; omega, by dsimp only; omega, hhead0, hhead⟩

/-- R81: without a respawn the end of the tail has not passed row 20, which bounds the moved head. -/
theorem moveHead (h : columnLegal c) (hr : ¬ columnRespawns c) : columnLegal { c with head := c.head + 1 } := by
  have hmoved := h.movedHead_toInt
  have htailEnd := h.tailEnd_toInt
  have hend : (c.head + 1 - zext16 c.tail).toInt ≤ 20 := not_lt.1 hr
  obtain ⟨htail4, htail13, hspeed1, hspeed3, hfc0, hfc9, hhead0, -⟩ := h
  exact ⟨htail4, htail13, hspeed1, hspeed3, hfc0, hfc9, by dsimp only; omega, by dsimp only; omega⟩

end columnLegal

/-- R79, R82: a column whose head, tail and speed come from their ranges. -/
theorem columnLegal_ofNat {head tail speed : Nat} {fc : Half} (hhead : head ≤ 20) (htail : 4 ≤ tail ∧ tail ≤ 13)
    (hspeed : 1 ≤ speed ∧ speed ≤ 3) (hfc : 0 ≤ fc.toInt ∧ fc.toInt ≤ 9) :
    columnLegal
      { head := BitVec.ofNat 16 head, tail := BitVec.ofNat 8 tail, speed := BitVec.ofNat 8 speed, fc := fc } := by
  have hheadInt := half_toInt_ofNat (n := head) (by omega)
  simp only [columnLegal, hheadInt, BitVec.toNat_ofNat]
  omega

end Sys2Proof.Machine
end

section
/-! Every command keeps the active columns legal (R21, R85): only `COLINIT` and `TICK` write columns. -/

namespace Sys2Proof.Machine

/-- R21 and R85 speak of `NCOLS` and the columns alone. -/
theorem columnsLegal_congr {s t : State} (hn : t.ncols = s.ncols) (hc : t.cols = s.cols) :
    columnsLegal t ↔ columnsLegal s := by
  simp only [columnsLegal, State.col, hn, hc]

/-- Of the fields R21 and R85 speak of, an error's action writes none (R91 to R94). -/
theorem columnsLegal_settle {r : Run} : columnsLegal (settle r) ↔ columnsLegal r.state := by
  cases r with
  | ok s => rfl
  | raised e s => exact columnsLegal_congr (by cases e <;> rfl) (by cases e <;> rfl)

theorem columnsLegal_setCol {s : State} {c : Fin 21} {k : Column} (hs : columnsLegal s) (hk : columnLegal k) :
    columnsLegal (s.setCol c k) := by
  refine ⟨hs.1, fun d hd => ?_⟩
  by_cases hdc : d = c
  · rw [hdc, State.col_setCol_same]
    exact hk
  · rw [State.col_setCol_other s k hdc]
    exact hs.2 d hd

theorem perform_columnsLegal (p : List Action) {s : State} (hs : columnsLegal s) :
    columnsLegal (perform p s).state := by
  have hfr := (perform_frame p s).1
  exact (columnsLegal_congr hfr.ncols hfr.cols).2 hs

/-! ## The cycle's part of a command (R48, R92) -/

theorem needReady_columnsLegal {body : State → Run} (hb : ∀ u, columnsLegal u → columnsLegal (body u).state)
    {s : State} (hs : columnsLegal s) : columnsLegal (needReady body s).state := by
  by_cases hr : s.state = .ready
  · rw [needReady_ready hr]
    exact hb s hs
  · rw [needReady_other hr]
    exact hs

theorem hostCommand_columnsLegal {len : Nat} {body : State → Run}
    (hb : ∀ u, columnsLegal u → columnsLegal (body u).state) {s : State} (hs : columnsLegal s) :
    columnsLegal (hostCommand len body s) :=
  columnsLegal_settle.2 (hb { s with result := .ok } hs)

/-! ## `INIT` -/

theorem doInit_columnsLegal {s : State} (hs : columnsLegal s) : columnsLegal (doInit s).state := by
  unfold doInit
  split
  · have hp := perform_columnsLegal (initPlan s.cfg.initTable) (s := { s with state := .initializing }) hs
    exact Run.andThen_state hp fun _ ht => ht
  · exact hs

/-! ## `COLINIT` (R79) -/

/-- What one round brings about, whatever state it starts from, and every round keeps holds when the loop has run. -/
theorem forEach_establishes {α : Type} {P : State → Prop} {body : α → State → Run} {l : List α} {a : α}
    (ha : a ∈ l) (hset : ∀ s, P (body a s).state) (hkeep : ∀ b s, P s → P (body b s).state)
    {s t : State} (h : forEach body l s = .ok t) : P t := by
  obtain ⟨before, after, rfl⟩ := List.append_of_mem ha
  rw [forEach_append] at h
  obtain ⟨u, -, hu⟩ := Run.andThen_eq_ok.1 h
  have hrest : P (forEach body (a :: after) u).state :=
    Run.andThen_state (hset u) fun v hv => forEach_keeps (fun b _ => hkeep b) hv
  rwa [hu] at hrest

/-- The four draws of a column raise no error. -/
theorem forEach_initColumn_ok (l : List (Fin 21)) (s : State) : ∃ t, forEach initColumn l s = .ok t := by
  induction l generalizing s with
  | nil => exact ⟨s, rfl⟩
  | cons c l ih => exact ih _

theorem nextDraw_headChoices (s : State) : s.nextDraw headChoices ≤ 19 :=
  (nextDraw_range s (a := 0) (b := 19) (by omega)).2

theorem nextDraw_tailChoices (s : State) : 4 ≤ s.nextDraw tailChoices ∧ s.nextDraw tailChoices ≤ 13 :=
  nextDraw_range s (a := 4) (b := 13) (by omega)

theorem nextDraw_speedChoices (s : State) : 1 ≤ s.nextDraw speedChoices ∧ s.nextDraw speedChoices ≤ 3 :=
  nextDraw_range s (a := 1) (b := 3) (by omega)

theorem nextDraw_fcChoices (s : State) : s.nextDraw fcChoices ≤ 9 :=
  (nextDraw_range s (a := 0) (b := 9) (by omega)).2

/-- Each field of the drawn column is in its list. -/
theorem initColumn_columnLegal (c : Fin 21) (s : State) : columnLegal ((initColumn c s).state.col c) := by
  simp only [initColumn, Run.state_ok, State.col_setCol_same]
  have hhead := nextDraw_headChoices s
  have hfc := nextDraw_fcChoices (((s.afterDraw headChoices).afterDraw tailChoices).afterDraw speedChoices)
  refine columnLegal_ofNat (by omega) (nextDraw_tailChoices _) (nextDraw_speedChoices _) ?_
  rw [half_toInt_ofNat] <;> omega

/-- Drawing one column makes no other illegal. -/
theorem initColumn_keeps_columnLegal {c : Fin 21} (b : Fin 21) (s : State) (hs : columnLegal (s.col c)) :
    columnLegal ((initColumn b s).state.col c) := by
  by_cases hcb : c = b
  · rw [hcb]
    exact initColumn_columnLegal b s
  · simp only [initColumn, Run.state_ok, State.col_setCol_other _ _ hcb, State.col_afterDraw]
    exact hs

/-- A column the loop has drawn is legal, whatever was in it before. -/
theorem forEach_initColumn_columnLegal {l : List (Fin 21)} {c : Fin 21} (hc : c ∈ l) {s t : State}
    (h : forEach initColumn l s = .ok t) : columnLegal (t.col c) :=
  forEach_establishes (P := fun u => columnLegal (u.col c)) hc (initColumn_columnLegal c) initColumn_keeps_columnLegal h

theorem doColinit_columnsLegal (n : Byte) {s : State} (hs : columnsLegal s) :
    columnsLegal (doColinit n s).state := by
  unfold doColinit
  split
  · exact hs
  · next hn =>
    obtain ⟨t, ht⟩ := forEach_initColumn_ok (firstCols n) s
    rw [ht]
    have hdrawn : ∀ c : Fin 21, c.val < n.toNat → columnLegal (t.col c) :=
      fun c hc => forEach_initColumn_columnLegal (mem_firstCols.2 hc) ht
    exact ⟨not_lt.1 hn, hdrawn⟩

/-! ## `TICK` (R80 to R83) -/

theorem moveHead_columnsLegal {c : Fin 21} {s : State} (hs : columnsLegal s) (hc : c.val < s.ncols.toNat) :
    columnsLegal (moveHead c s) := by
  have hcol := hs.2 c hc
  by_cases hr : columnRespawns (s.col c)
  · obtain ⟨-, -, -, -, -, hncols, -⟩ := moveHead_frame c s
    refine ⟨hncols ▸ hs.1, fun d hd => ?_⟩
    by_cases hdc : d = c
    · obtain ⟨-, -, -, -, hfc0, hfc9, -, -⟩ := hcol
      rw [hdc, moveHead_respawns hr]
      exact columnLegal_ofNat (head := 0) (by omega) (respawnTail_range s _) (respawnSpeed_range s _) ⟨hfc0, hfc9⟩
    · rw [moveHead_other s hdc]
      exact hs.2 d (hncols ▸ hd)
  · rw [moveHead_stays (not_lt.1 hr)]
    exact columnsLegal_setCol hs (hcol.moveHead hr)

/-- R83: also where the painting fails, which leaves the counter reset and the head as it was. -/
theorem tickColumn_columnsLegal {c : Fin 21} {s : State} (hs : columnsLegal s) (hc : c.val < s.ncols.toNat) :
    columnsLegal (tickColumn c s).state := by
  have hcol := hs.2 c hc
  have hreset : columnsLegal (s.setCol c { s.col c with fc := zext16 (s.col c).speed }) :=
    columnsLegal_setCol hs hcol.resetCounter
  rcases tickColumn_cases c s with ⟨hd, h⟩ | ⟨-, t, hfr, -, h⟩ | ⟨-, t, hfr, h⟩ <;> rw [h]
  · exact columnsLegal_setCol hs (hcol.countDown hd)
  · exact moveHead_columnsLegal ((columnsLegal_congr hfr.ncols hfr.cols).2 hreset) (hfr.ncols ▸ hc)
  · exact (columnsLegal_congr hfr.ncols hfr.cols).2 hreset

theorem tickColumn_ncols (c : Fin 21) (s : State) : (tickColumn c s).state.ncols = s.ncols := by
  rcases tickColumn_cases c s with ⟨-, h⟩ | ⟨-, t, hfr, -, h⟩ | ⟨-, t, hfr, h⟩ <;> rw [h]
  · rfl
  · obtain ⟨-, -, -, -, -, hncols, -⟩ := moveHead_frame c t
    exact hncols.trans hfr.ncols
  · exact hfr.ncols

/-- The loop visits active columns only, since no round writes `NCOLS`. -/
theorem doTick_columnsLegal {s : State} (hs : columnsLegal s) : columnsLegal (doTick s).state := by
  have hloop : columnsLegal (doTick s).state ∧ (doTick s).state.ncols = s.ncols := by
    refine forEach_keeps (P := fun u => columnsLegal u ∧ u.ncols = s.ncols) (fun c hc u hu => ?_) ⟨hs, rfl⟩
    obtain ⟨hlegal, hncols⟩ := hu
    exact ⟨tickColumn_columnsLegal hlegal (hncols ▸ mem_firstCols.1 hc), (tickColumn_ncols c u).trans hncols⟩
  exact hloop.1

/-! ## The instructions -/

theorem exec_columnsLegal {i : Instr} {s t : State} (hs : columnsLegal s) (h : exec i s = .next t) :
    columnsLegal t := by
  cases form_of_exec h with
  | init => exact hostCommand_columnsLegal (fun _ => doInit_columnsLegal) hs
  | colinit n => exact hostCommand_columnsLegal (fun _ => doColinit_columnsLegal n) hs
  | tick => exact hostCommand_columnsLegal (fun _ => needReady_columnsLegal fun _ => doTick_columnsLegal) hs
  | reserved op => exact (columnsLegal_settle (r := .raised .illegalOpcode s)).2 hs
  | drawing i plan =>
    exact hostCommand_columnsLegal (fun _ => needReady_columnsLegal fun u => perform_columnsLegal (plan u.cfg)) hs
  | controller i plan => exact columnsLegal_settle.2 (perform_columnsLegal plan hs)

end Sys2Proof.Machine
end

section
/-! The statements of 43_animation.md settled here. -/

namespace Sys2Proof.Machine

theorem rampColour_of_lt {cfg : Config} {i : Nat} (h : i < cfg.ramp.length) : rampColour cfg i = cfg.ramp[i] :=
  List.getD_eq_getElem _ _ h

theorem rampColour_of_length_le {cfg : Config} {i : Nat} (h : cfg.ramp.length ≤ i) : rampColour cfg i = 0x0000 :=
  List.getD_eq_default _ _ h

/-- Settles O52: whatever the command at `CP`, its rule keeps the active columns legal; on legal values every sum and
difference of column fields fits in s16. -/
theorem everyStepKeepsColumnsLegal : Obligations.EveryStepKeepsColumnsLegal := by
  refine ⟨fun s t hs h => ?_, fun c hc => ⟨fun i hi => ⟨hc.row_toInt hi, ?_⟩, hc.movedHead_toInt, ?_,
    hc.countDown_toInt, hc.tailEnd_toInt⟩⟩
  · obtain ⟨-, i, rest, -, hexec⟩ := step_eq_next h
    exact exec_columnsLegal hs hexec
  · obtain ⟨-, htail, -, -, -, -, hhead0, hhead⟩ := hc
    omega
  · obtain ⟨-, htail, -, -, -, -, -, hhead⟩ := hc
    omega

/-- Settles O33: an index of the ramp reads its entry, and one past its end the background. -/
theorem rampColourIsBackgroundPastTheRamp : Obligations.RampColourIsBackgroundPastTheRamp :=
  fun _ _ => ⟨rampColour_of_lt, rampColour_of_length_le⟩

end Sys2Proof.Machine
end

section
/-! How a host command answers (R90 to R94): which errors its rule can raise and in which `STATE`, and the whole effect
of the errors that end a command before its rule has done anything. -/

namespace Sys2Proof.Machine

/-- The command has raised no error of its own: `RESULT` is `OK`, or a transfer failed. -/
def NoCommandError (s : State) : Prop := s.result = .ok ∨ s.result = .errTransport

theorem noCommandError_congr {s t : State} (h : t.result = s.result) : NoCommandError t ↔ NoCommandError s := by
  simp only [NoCommandError, h]

/-! ## What the rules raise once their checks are passed -/

/-- R91: a rule that keeps `RESULT` and raises nothing but `TransportFail`. -/
theorem settle_noCommandError {r : Run} (hr : NoCommandError r.state)
    (hraises : ∀ e t, r = .raised e t → e = .transportFail) : NoCommandError (settle r) := by
  cases r with
  | ok t => exact hr
  | raised e t =>
    cases hraises e t rfl
    exact .inr rfl

theorem settle_perform_noCommandError (p : List Action) {s : State} (hs : NoCommandError s) :
    NoCommandError (settle (perform p s)) := by
  obtain ⟨-, -, hresult, -⟩ := perform_frame p s
  exact settle_noCommandError ((noCommandError_congr hresult).2 hs) fun _ _ => perform_raises

theorem settle_tickColumn_noCommandError (c : Fin 21) {s : State} (hs : NoCommandError s) :
    NoCommandError (settle (tickColumn c s)) := by
  rcases tickColumn_cases c s with ⟨-, h⟩ | ⟨-, t, hfr, -, h⟩ | ⟨-, t, -, h⟩ <;> rw [h]
  · exact hs
  · obtain ⟨-, hresult, -⟩ := moveHead_frame c t
    exact (noCommandError_congr (hresult.trans hfr.result)).2 hs
  · exact .inr rfl

theorem settle_doTick_noCommandError {s : State} (hs : NoCommandError s) : NoCommandError (settle (doTick s)) :=
  settle_forEach (fun c _ _ => settle_tickColumn_noCommandError c) hs

theorem settle_initColumns_noCommandError (l : List (Fin 21)) {s : State} (hs : NoCommandError s) :
    NoCommandError (settle (forEach initColumn l s)) :=
  settle_forEach (fun _ _ _ hu => hu) hs

/-! ## `INIT` and `COLINIT`, with their checks -/

theorem doInit_uninit {s : State} (h : s.state = .uninit) :
    doInit s = (perform (initPlan s.cfg.initTable) { s with state := .initializing }).andThen
      fun t => .ok { t with state := .ready } := if_pos h

theorem doInit_other {s : State} (h : s.state ≠ .uninit) : doInit s = .raised .stateError s := if_neg h

theorem doColinit_inRange {n : Byte} (h : n.toNat ≤ 21) (s : State) :
    doColinit n s = (forEach initColumn (firstCols n) s).andThen fun t => .ok { t with ncols := n } :=
  if_neg (Nat.not_lt.2 h)

theorem doColinit_outOfRange {n : Byte} (h : 21 < n.toNat) (s : State) : doColinit n s = .raised .rangeError s :=
  if_pos h

theorem settle_doInit_noCommandError {s : State} (h : s.state = .uninit) (hs : NoCommandError s) :
    NoCommandError (settle (doInit s)) := by
  rw [doInit_uninit h]
  exact settle_andThen (settle_perform_noCommandError _ (s := { s with state := .initializing }) hs) fun _ ht => ht

theorem settle_doColinit_noCommandError {n : Byte} (h : n.toNat ≤ 21) {s : State} (hs : NoCommandError s) :
    NoCommandError (settle (doColinit n s)) := by
  rw [doColinit_inRange h]
  exact settle_andThen (settle_initColumns_noCommandError (firstCols n) hs) fun _ ht => ht

/-- R92: `INIT` outside `UNINIT`. -/
theorem exec_init_rejected {s : State} (h : s.state ≠ .uninit) :
    exec .init s = .next { s with result := .errState, cp := s.cp + 1 } :=
  congrArg Host.Outcome.next (hostCommand_of_raised (doInit_other h))

/-- R94: `COLINIT` of more columns than there are. -/
theorem exec_colinit_rejected {n : Byte} (h : 21 < n.toNat) (s : State) :
    exec (.colinit n) s = .next { s with result := .errRange, cp := s.cp + 2 } :=
  congrArg Host.Outcome.next (hostCommand_of_raised (doColinit_outOfRange h _))

/-! ## The commands that need `READY` -/

/-- R92: the instruction checks for `READY`, and past the check raises no error of its own. -/
def NeedsReady (i : Instr) : Prop :=
  ∃ body : State → Run, (∀ s, exec i s = .next (hostCommand (instrLength i) (needReady body) s)) ∧
    ∀ u, NoCommandError u → NoCommandError (settle (body u))

/-- Every host command but `INIT`, `COLINIT` and the reserved opcodes needs `READY`. -/
theorem needsReady_of_isHostCommand {i : Instr} (hi : i.isHostCommand = true) (hinit : i ≠ .init)
    (hcolinit : ∀ n, i ≠ .colinit n) (hreserved : ∀ op, i ≠ .reserved op) : NeedsReady i := by
  cases i
  case init => exact absurd rfl hinit
  case colinit n => exact absurd rfl (hcolinit n)
  case reserved op => exact absurd rfl (hreserved op)
  case tick => exact ⟨doTick, fun _ => rfl, fun _ => settle_doTick_noCommandError⟩
  case setwin | wrpix | fill | clear | fillscreen | drawpix | drawchar | drawstr =>
    exact ⟨_, fun _ => rfl, fun _ => settle_perform_noCommandError _⟩
  all_goals exact absurd hi Bool.false_ne_true

theorem NeedsReady.exec_rejected {i : Instr} (hi : NeedsReady i) {s : State} (h : s.state ≠ .ready) :
    exec i s = .next { s with result := .errState, cp := s.cp + instrLength i } := by
  obtain ⟨body, hexec, -⟩ := hi
  rw [hexec, rejectedCommand h]

theorem NeedsReady.exec_ready {i : Instr} (hi : NeedsReady i) {s t : State} (hs : s.state = .ready)
    (h : exec i s = .next t) : NoCommandError t := by
  obtain ⟨body, hexec, hbody⟩ := hi
  cases (hexec s).symm.trans h
  simp only [hostCommand, needReady_ready (s := { s with result := .ok }) hs]
  exact hbody _ (.inl rfl)

/-! ## What a host command can answer -/

/-- R90 to R94: the answers of the host commands, each error with the instruction and the `STATE` that raise it. -/
inductive HostAnswer (s : State) : Instr → ResultCode → Prop where
  | ok (i : Instr) : HostAnswer s i .ok
  | transportFail (i : Instr) : HostAnswer s i .errTransport
  | initState : s.state ≠ .uninit → HostAnswer s .init .errState
  | readyState (i : Instr) : i ≠ .init → (∀ n, i ≠ .colinit n) → s.state ≠ .ready → HostAnswer s i .errState
  | illegalOpcode (op : Byte) : HostAnswer s (.reserved op) .errIllegal
  | range (n : Byte) : 21 < n.toNat → HostAnswer s (.colinit n) .errRange

theorem NoCommandError.hostAnswer {t : State} (h : NoCommandError t) (s : State) (i : Instr) :
    HostAnswer s i t.result := by
  rcases h with h | h <;> rw [h]
  · exact .ok i
  · exact .transportFail i

theorem exec_init_answer {s t : State} (h : exec .init s = .next t) : HostAnswer s .init t.result := by
  by_cases hs : s.state = .uninit
  · cases h
    exact NoCommandError.hostAnswer (settle_doInit_noCommandError (s := { s with result := .ok }) hs (.inl rfl)) s _
  · cases (exec_init_rejected hs).symm.trans h
    exact .initState hs

theorem exec_colinit_answer {n : Byte} {s t : State} (h : exec (.colinit n) s = .next t) :
    HostAnswer s (.colinit n) t.result := by
  by_cases hn : 21 < n.toNat
  · cases (exec_colinit_rejected hn s).symm.trans h
    exact .range n hn
  · cases h
    exact NoCommandError.hostAnswer
      (settle_doColinit_noCommandError (Nat.not_lt.1 hn) (s := { s with result := .ok }) (.inl rfl)) s _

theorem exec_answer {i : Instr} {s t : State} (hi : i.isHostCommand = true) (h : exec i s = .next t) :
    HostAnswer s i t.result := by
  by_cases hinit : i = .init
  · subst hinit
    exact exec_init_answer h
  by_cases hcolinit : ∃ n, i = .colinit n
  · obtain ⟨n, rfl⟩ := hcolinit
    exact exec_colinit_answer h
  by_cases hreserved : ∃ op, i = .reserved op
  · obtain ⟨op, rfl⟩ := hreserved
    rw [exec_reserved h]
    exact .illegalOpcode op
  have hready := needsReady_of_isHostCommand hi hinit (not_exists.1 hcolinit) (not_exists.1 hreserved)
  by_cases hs : s.state = .ready
  · exact (hready.exec_ready hs h).hostAnswer s i
  · cases (hready.exec_rejected hs).symm.trans h
    exact .readyState i hinit (not_exists.1 hcolinit) hs

/-! ## An unassigned opcode at `CP` (R54, R93) -/

/-- R54: an unassigned byte is a command of its own, whatever follows it. -/
theorem decode_of_reservedOpcode {op : Byte} (h : reservedOpcode op = true) (rest : List Byte) :
    decode (op :: rest) = .ok (.reserved op, rest) := by
  have hne : ∀ b, reservedOpcode b = false → op ≠ b := by
    rintro b hb rfl
    exact Bool.false_ne_true (hb.symm.trans h)
  rw [decode, if_neg (hne opInit rfl), if_neg (hne opSetwin rfl), if_neg (hne opWrpix rfl), if_neg (hne opFill rfl),
    if_neg (hne opDrawpix rfl), if_neg (hne opDrawchar rfl), if_neg (hne opDrawstr rfl), if_neg (hne opColinit rfl),
    if_neg (hne opTick rfl)]

/-- R48: a block that is not stopped runs the command the decoder reads at `CP`. -/
theorem step_of_decode {s : State} {i : Instr} {rest : List Byte} (hs : s.stopped = false)
    (hd : decode (s.stream.drop s.cp) = .ok (i, rest)) : step s = exec i s := by
  simp only [step, hs, hd, Bool.false_eq_true, if_false]

end Sys2Proof.Machine
end

section
/-! The statements of 60_exceptions.md settled here. -/

namespace Sys2Proof.Machine

/-- Settles O13: the check of `STATE` comes first in each rule, and no rule raises `StateError` past its check. -/
theorem wrongStateIsRejectedWithoutEffect : Obligations.WrongStateIsRejectedWithoutEffect := by
  refine ⟨fun s hs => exec_init_rejected hs, fun i s hs hi => ?_, fun i s t hi h herr => ?_, rfl⟩
  · have hready : NeedsReady i := by
      rcases hi with ⟨_, _, _, _, rfl⟩ | ⟨_, rfl⟩ | ⟨_, rfl⟩ | ⟨_, rfl⟩ | ⟨_, rfl⟩ | ⟨_, _, _, rfl⟩ |
        ⟨_, _, _, _, _, rfl⟩ | ⟨_, _, _, _, _, rfl⟩ | rfl <;>
      exact needsReady_of_isHostCommand rfl nofun nofun nofun
    exact hready.exec_rejected hs
  · have hanswer := exec_answer hi h
    rw [herr] at hanswer
    cases hanswer with
    | initState hs => exact ⟨nofun, fun _ => hs, fun hne => absurd rfl hne⟩
    | readyState i hinit hcolinit hs => exact ⟨hcolinit, fun heq => absurd heq hinit, fun _ => hs⟩

/-- Settles O14: the range check comes first in the rule of `COLINIT`, and no other rule raises `RangeError`. -/
theorem rangeErrorOnlyFromColinit : Obligations.RangeErrorOnlyFromColinit := by
  refine ⟨fun n s hn => exec_colinit_rejected hn s, fun i s t hi h herr => ?_, rfl⟩
  have hanswer := exec_answer hi h
  rw [herr] at hanswer
  cases hanswer with
  | range n hn => exact ⟨n, rfl, hn⟩

/-- Settles O12: an unassigned byte decodes to its own instruction, and the action of its error sets `STOPPED`, after
which the cycle takes no step. -/
theorem reservedOpcodeStopsTheBlock : Obligations.ReservedOpcodeStopsTheBlock := by
  refine ⟨fun op s => rfl, fun s op rest hs hop hreserved => ?_, rfl⟩
  have hdecode : decode (s.stream.drop s.cp) = .ok (.reserved op, rest) := by
    rw [hop]
    exact decode_of_reservedOpcode (by simpa [reservedOpcode] using hreserved) rest
  exact ⟨_, step_of_decode hs hdecode, rfl, fun bs => step_of_stopped rfl⟩

end Sys2Proof.Machine
end

section
/-! `FAILED` is absorbing: a command either checks for another `STATE` first and is rejected, or writes no `STATE` but
that of a failed transfer (R91, R92). -/

namespace Sys2Proof.Machine

/-- R91: no plan leaves `FAILED`; if one of its transfers fails, the error's action writes `FAILED` again. -/
theorem settle_perform_failed (p : List Action) {s : State} (hs : s.state = .failed) :
    (settle (perform p s)).state = .failed := by
  obtain ⟨-, hstate, -⟩ := perform_frame p s
  cases hp : perform p s with
  | ok t =>
    rw [hp] at hstate
    exact hstate.trans hs
  | raised e t =>
    cases perform_raises hp
    rfl

/-- `COLINIT` is accepted in every `STATE` and changes none, whether its count is in range or not (R79, R92, R94). -/
theorem settle_doColinit_state (n : Byte) (s : State) : (settle (doColinit n s)).state = s.state := by
  by_cases hn : n.toNat ≤ 21
  · rw [doColinit_inRange hn]
    have hcols : (settle (forEach initColumn (firstCols n) s)).state = s.state :=
      settle_forEach (P := fun u => u.state = s.state) (body := initColumn) (fun _ _ _ hu => hu) rfl
    exact settle_andThen (P := fun u => u.state = s.state) hcols fun _ ht => ht
  · rw [doColinit_outOfRange (Nat.lt_of_not_le hn)]
    rfl

/-- R92: a host command that needs `READY` keeps any other `STATE`. -/
theorem hostCommand_needReady_state {len : Nat} {body : State → Run} {s : State} (hs : s.state ≠ .ready) :
    (hostCommand len (needReady body) s).state = s.state := by
  rw [rejectedCommand hs]

/-- R108: no instruction leaves `FAILED`, not even `INIT`. -/
theorem exec_failed {i : Instr} {s t : State} (hs : s.state = .failed) (h : exec i s = .next t) :
    t.state = .failed := by
  have hready : s.state ≠ .ready := by simp [hs]
  cases form_of_exec h with
  | init =>
    have hrejected : doInit { s with result := .ok } = .raised .stateError { s with result := .ok } :=
      doInit_other (by simp [hs])
    rw [hostCommand_of_raised hrejected]
    exact hs
  | colinit n => exact (settle_doColinit_state n { s with result := .ok }).trans hs
  | tick => exact (hostCommand_needReady_state hready).trans hs
  | drawing i plan => exact (hostCommand_needReady_state hready).trans hs
  | reserved op => exact hs
  | controller i plan => exact settle_perform_failed plan hs

end Sys2Proof.Machine
end

section
/-! The statement of 70_reset_and_hazards.md settled here. -/

namespace Sys2Proof.Machine

/-- Settles O10: block reset takes every register from the reset state and the rest from the state it starts from; no
instruction leaves `FAILED`, and the cycle takes no step of a stopped block. -/
theorem blockResetIsTheOnlyWayOut : Obligations.BlockResetIsTheOnlyWayOut := by
  refine ⟨fun s => ⟨s.blockReset_state, s.blockReset_result, s.blockReset_stopped, s.blockReset_lines, s.blockReset_cp,
    s.blockReset_ncols, congrArg List.reverse s.blockReset_log, s.blockReset_panel⟩, fun s t h hs => ?_,
    fun s hs t h => ?_⟩
  · obtain ⟨-, i, rest, -, hexec⟩ := step_eq_next h
    exact exec_failed hs hexec
  · cases (step_of_stopped hs).symm.trans h

end Sys2Proof.Machine
end

section
/-! The decoder and the encoder, format by format (R50): what each operand decoder answers, when it waits, and the two
directions between a command and its bytes. -/

namespace Sys2Proof.Machine

/-! ## Reading back the operand bytes of each format -/

theorem decodeFN_operands (mk : Byte → Instr) (op n : Byte) (rest : List Byte) :
    decodeFN mk op (n :: rest) = .ok (mk n, rest) := rfl

theorem decodeFC_operands (mk : Half → Instr) (op : Byte) (c : Half) (rest : List Byte) :
    decodeFC mk op (bytesOf c ++ rest) = .ok (mk c, rest) := by
  simp [decodeFC, bytesOf]

theorem decodeFP_operands (mk : Half → Half → Half → Instr) (op : Byte) (x y c : Half) (rest : List Byte) :
    decodeFP mk op (bytesOf x ++ bytesOf y ++ bytesOf c ++ rest) = .ok (mk x y c, rest) := by
  simp [decodeFP, bytesOf]

theorem decodeFW_operands (mk : Half → Half → Half → Half → Instr) (op : Byte) (x0 y0 x1 y1 : Half)
    (rest : List Byte) :
    decodeFW mk op (bytesOf x0 ++ bytesOf y0 ++ bytesOf x1 ++ bytesOf y1 ++ rest) = .ok (mk x0 y0 x1 y1, rest) := by
  simp [decodeFW, bytesOf]

theorem decodeFG_operands (mk : Half → Half → Byte → Half → Half → Instr) (op : Byte) (x y : Half) (code : Byte)
    (fg bg : Half) (rest : List Byte) :
    decodeFG mk op (bytesOf x ++ bytesOf y ++ code :: (bytesOf fg ++ bytesOf bg) ++ rest) =
      .ok (mk x y code fg bg, rest) := by
  simp [decodeFG, bytesOf]

/-- The length byte counts a text of at most 255 bytes (R51). -/
theorem decodeFS_operands (mk : Half → Half → Half → Half → List Byte → Instr) (op : Byte) (x y fg bg : Half)
    {text : List Byte} (htext : text.length ≤ 255) (rest : List Byte) :
    decodeFS mk op
        (bytesOf x ++ bytesOf y ++ bytesOf fg ++ bytesOf bg ++ BitVec.ofNat 8 text.length :: text ++ rest) =
      .ok (mk x y fg bg text, rest) := by
  have hlen : text.length % 256 = text.length := Nat.mod_eq_of_lt (by omega)
  simp [decodeFS, bytesOf, hlen]

/-! ## The opcode chooses the format (R53) -/

@[simp] theorem decode_opInit (rest : List Byte) : decode (opInit :: rest) = .ok (.init, rest) := rfl
@[simp] theorem decode_opSetwin (rest : List Byte) : decode (opSetwin :: rest) = decodeFW .setwin opSetwin rest := rfl
@[simp] theorem decode_opWrpix (rest : List Byte) : decode (opWrpix :: rest) = decodeFC .wrpix opWrpix rest := rfl
@[simp] theorem decode_opFill (rest : List Byte) : decode (opFill :: rest) = decodeFC .fill opFill rest := rfl
@[simp] theorem decode_opDrawpix (rest : List Byte) :
    decode (opDrawpix :: rest) = decodeFP .drawpix opDrawpix rest := rfl
@[simp] theorem decode_opDrawchar (rest : List Byte) :
    decode (opDrawchar :: rest) = decodeFG .drawchar opDrawchar rest := rfl
@[simp] theorem decode_opDrawstr (rest : List Byte) :
    decode (opDrawstr :: rest) = decodeFS .drawstr opDrawstr rest := rfl
@[simp] theorem decode_opColinit (rest : List Byte) :
    decode (opColinit :: rest) = decodeFN .colinit opColinit rest := rfl
@[simp] theorem decode_opTick (rest : List Byte) : decode (opTick :: rest) = .ok (.tick, rest) := rfl

/-- The bytes of a well-formed host command decode to it, a pseudo-instruction's to its expansion (R50, R54, R56). -/
theorem decode_encode {i : Instr} (hhost : i.isHostCommand = true) (hwf : i.wellFormed = true) (rest : List Byte) :
    decode (encode i ++ rest) = .ok (i.expand, rest) := by
  cases i
  case init | tick => rfl
  case setwin x0 y0 x1 y1 => exact decodeFW_operands .setwin opSetwin x0 y0 x1 y1 rest
  case wrpix c => exact decodeFC_operands .wrpix opWrpix c rest
  case fill c | clear c | fillscreen c => exact decodeFC_operands .fill opFill c rest
  case drawpix x y c => exact decodeFP_operands .drawpix opDrawpix x y c rest
  case drawchar x y code fg bg => exact decodeFG_operands .drawchar opDrawchar x y code fg bg rest
  case drawstr x y fg bg text => exact decodeFS_operands .drawstr opDrawstr x y fg bg (of_decide_eq_true hwf) rest
  case colinit n => exact decodeFN_operands .colinit opColinit n rest
  case reserved op => exact decode_of_reservedOpcode hwf rest
  all_goals exact absurd hhost Bool.false_ne_true

/-! ## What an answered command's bytes were -/

@[simp] theorem bytesOf_half (a b : Byte) : bytesOf (half a b) = [a, b] := by simp [bytesOf]

theorem decodeFN_bytes {mk : Byte → Instr} {op : Byte} {bs : List Byte} {i : Instr} {rest : List Byte}
    (h : decodeFN mk op bs = .ok (i, rest)) : ∃ n, i = mk n ∧ bs = n :: rest := by
  unfold decodeFN at h
  split at h <;> cases h
  exact ⟨_, rfl, rfl⟩

theorem decodeFC_bytes {mk : Half → Instr} {op : Byte} {bs : List Byte} {i : Instr} {rest : List Byte}
    (h : decodeFC mk op bs = .ok (i, rest)) : ∃ c, i = mk c ∧ bs = bytesOf c ++ rest := by
  unfold decodeFC at h
  split at h <;> cases h
  exact ⟨_, rfl, by simp⟩

theorem decodeFP_bytes {mk : Half → Half → Half → Instr} {op : Byte} {bs : List Byte} {i : Instr} {rest : List Byte}
    (h : decodeFP mk op bs = .ok (i, rest)) :
    ∃ x y c, i = mk x y c ∧ bs = bytesOf x ++ bytesOf y ++ bytesOf c ++ rest := by
  unfold decodeFP at h
  split at h <;> cases h
  exact ⟨_, _, _, rfl, by simp⟩

theorem decodeFW_bytes {mk : Half → Half → Half → Half → Instr} {op : Byte} {bs : List Byte} {i : Instr}
    {rest : List Byte} (h : decodeFW mk op bs = .ok (i, rest)) :
    ∃ x0 y0 x1 y1, i = mk x0 y0 x1 y1 ∧
      bs = bytesOf x0 ++ bytesOf y0 ++ bytesOf x1 ++ bytesOf y1 ++ rest := by
  unfold decodeFW at h
  split at h <;> cases h
  exact ⟨_, _, _, _, rfl, by simp⟩

theorem decodeFG_bytes {mk : Half → Half → Byte → Half → Half → Instr} {op : Byte} {bs : List Byte} {i : Instr}
    {rest : List Byte} (h : decodeFG mk op bs = .ok (i, rest)) :
    ∃ x y code fg bg, i = mk x y code fg bg ∧
      bs = bytesOf x ++ bytesOf y ++ code :: (bytesOf fg ++ bytesOf bg) ++ rest := by
  unfold decodeFG at h
  split at h <;> cases h
  exact ⟨_, _, _, _, _, rfl, by simp⟩

/-- The text is the bytes the length byte counts, so that byte is the text's length. -/
theorem decodeFS_bytes {mk : Half → Half → Half → Half → List Byte → Instr} {op : Byte} {bs : List Byte} {i : Instr}
    {rest : List Byte} (h : decodeFS mk op bs = .ok (i, rest)) :
    ∃ x y fg bg text, i = mk x y fg bg text ∧ text.length ≤ 255 ∧
      bs = bytesOf x ++ bytesOf y ++ bytesOf fg ++ bytesOf bg ++ BitVec.ofNat 8 text.length :: text ++ rest := by
  unfold decodeFS at h
  split at h
  · next xh xl yh yl fh fl bh bl len rest' =>
    split at h <;> cases h
    next hlen =>
    have htake : (rest'.take len.toNat).length = len.toNat := List.length_take_of_le hlen
    exact ⟨_, _, _, _, _, rfl, by omega, by simp [htake]⟩
  · cases h

/-- The bytes the decoder read are the word of the command it answers, which is well formed, a host command and no
pseudo-instruction (R50 to R54). -/
theorem decode_ok_bytes {bs : List Byte} {i : Instr} {rest : List Byte} (h : decode bs = .ok (i, rest)) :
    bs = encode i ++ rest ∧ i.wellFormed = true ∧ i.isHostCommand = true ∧ i.expand = i := by
  cases bs with
  | nil => cases h
  | cons op bs =>
    by_cases hop : reservedOpcode op = true
    · cases (decode_of_reservedOpcode hop bs).symm.trans h
      exact ⟨rfl, hop, rfl, rfl⟩
    · have hassigned : ¬ ∃ b, i = .reserved b := fun hi => hop ((decode_reserved_iff h).1 hi)
      simp only [decode] at h
      split_ifs at h with h1 h2 h3 h4 h5 h6 h7 h8 h9
      · cases h
        exact ⟨h1 ▸ rfl, rfl, rfl, rfl⟩
      · obtain ⟨x0, y0, x1, y1, rfl, rfl⟩ := decodeFW_bytes h
        exact ⟨h2 ▸ rfl, rfl, rfl, rfl⟩
      · obtain ⟨c, rfl, rfl⟩ := decodeFC_bytes h
        exact ⟨h3 ▸ rfl, rfl, rfl, rfl⟩
      · obtain ⟨c, rfl, rfl⟩ := decodeFC_bytes h
        exact ⟨h4 ▸ rfl, rfl, rfl, rfl⟩
      · obtain ⟨x, y, c, rfl, rfl⟩ := decodeFP_bytes h
        exact ⟨h5 ▸ rfl, rfl, rfl, rfl⟩
      · obtain ⟨x, y, code, fg, bg, rfl, rfl⟩ := decodeFG_bytes h
        exact ⟨h6 ▸ rfl, rfl, rfl, rfl⟩
      · obtain ⟨x, y, fg, bg, text, rfl, htext, rfl⟩ := decodeFS_bytes h
        exact ⟨h7 ▸ rfl, decide_eq_true htext, rfl, rfl⟩
      · obtain ⟨n, rfl, rfl⟩ := decodeFN_bytes h
        exact ⟨h8 ▸ rfl, rfl, rfl, rfl⟩
      · cases h
        exact ⟨h9 ▸ rfl, rfl, rfl, rfl⟩
      · cases h
        exact absurd ⟨op, rfl⟩ hassigned

/-- R52, for every instruction: the law made per instruction under `Laws.EncodeLength`. -/
theorem encode_length (i : Instr) : (encode i).length = instrLength i := by
  cases i
  case drawstr x y fg bg text => exact Laws.EncodeLength.drawstr x y fg bg text
  all_goals rfl

/-- R47: bytes appended after a whole command are bytes after it. -/
theorem decode_append {bs : List Byte} {i : Instr} {rest : List Byte} (h : decode bs = .ok (i, rest))
    (more : List Byte) : decode (bs ++ more) = .ok (i, rest ++ more) := by
  obtain ⟨rfl, hwf, hhost, hexpand⟩ := decode_ok_bytes h
  rw [List.append_assoc, decode_encode hhost hwf, hexpand]

/-! ## When a format waits for more bytes (R48) -/

theorem decodeFN_incomplete {mk : Byte → Instr} {op : Byte} {bs : List Byte} (h : bs.length < 1) :
    decodeFN mk op bs = .error (.incomplete op) := by
  unfold decodeFN
  split
  · simp at h
  · rfl

theorem decodeFC_incomplete {mk : Half → Instr} {op : Byte} {bs : List Byte} (h : bs.length < 2) :
    decodeFC mk op bs = .error (.incomplete op) := by
  unfold decodeFC
  split
  · simp only [List.length_cons] at h
    omega
  · rfl

theorem decodeFP_incomplete {mk : Half → Half → Half → Instr} {op : Byte} {bs : List Byte} (h : bs.length < 6) :
    decodeFP mk op bs = .error (.incomplete op) := by
  unfold decodeFP
  split
  · simp only [List.length_cons] at h
    omega
  · rfl

theorem decodeFW_incomplete {mk : Half → Half → Half → Half → Instr} {op : Byte} {bs : List Byte}
    (h : bs.length < 8) : decodeFW mk op bs = .error (.incomplete op) := by
  unfold decodeFW
  split
  · simp only [List.length_cons] at h
    omega
  · rfl

theorem decodeFG_incomplete {mk : Half → Half → Byte → Half → Half → Instr} {op : Byte} {bs : List Byte}
    (h : bs.length < 9) : decodeFG mk op bs = .error (.incomplete op) := by
  unfold decodeFG
  split
  · simp only [List.length_cons] at h
    omega
  · rfl

/-- `FS` waits for its length byte, and then for the text that byte counts (R52). -/
theorem decodeFS_incomplete {mk : Half → Half → Half → Half → List Byte → Instr} {op : Byte} {bs : List Byte}
    (h : bs.length < 9 ∨ ∃ len, bs[8]? = some len ∧ bs.length < 9 + len.toNat) :
    decodeFS mk op bs = .error (.incomplete op) := by
  unfold decodeFS
  split
  · next xh xl yh yl fh fl bh bl len rest =>
    have hshort : ¬ len.toNat ≤ rest.length := by
      simp only [List.length_cons] at h
      rcases h with h | ⟨len', hget, h⟩
      · omega
      · cases hget
        omega
    rw [if_neg hshort]
  · rfl

end Sys2Proof.Machine
end

section
/-! The statements of 30_encoding.md on words and on the command cycle settled here. -/

namespace Sys2Proof.Machine

/-- Settles O1: each format's operand decoder reads back the operand bytes the encoder writes. -/
theorem decodeReadsEncodedCommand : Obligations.DecodeReadsEncodedCommand :=
  fun _ rest hhost hwf => decode_encode hhost hwf rest

/-- Settles O2: each format's operand decoder answers only what the encoder writes as the bytes it read. -/
theorem decodedBytesAreTheCommandsWord : Obligations.DecodedBytesAreTheCommandsWord := by
  intro bs i rest h
  obtain ⟨hbs, hwf, hhost, hexpand⟩ := decode_ok_bytes h
  exact ⟨hbs, encode_length i, hwf, hhost, hexpand⟩

/-- Settles O3, by evaluating the decoder on the ten words. -/
theorem wordsOfTheSpecDecode : Obligations.WordsOfTheSpecDecode := by
  unfold Obligations.WordsOfTheSpecDecode
  decide

theorem step_of_noOpcode {s : State} (hs : s.stopped = false) (hd : s.stream.drop s.cp = []) :
    step s = .fault .noOpcode := by
  simp [step, hs, hd, decode]

theorem step_of_incomplete {s : State} {op : Byte} (hs : s.stopped = false)
    (hd : decode (s.stream.drop s.cp) = .error (.incomplete op)) : step s = .fault .incompleteCommand := by
  simp [step, hs, hd]

/-- An assigned opcode of a format of fixed length, with a byte of it missing (R48, R52). -/
theorem decode_incomplete {op : Byte} {n : Nat} {rest : List Byte}
    (hop : (op, n) ∈ [((0x02 : Byte), 9), (0x03, 3), (0x04, 3), (0x05, 7), (0x06, 10), (0x08, 2)])
    (hn : rest.length + 1 < n) : decode (op :: rest) = .error (.incomplete op) := by
  simp only [List.mem_cons, Prod.mk.injEq, List.not_mem_nil, or_false] at hop
  rcases hop with ⟨rfl, rfl⟩ | ⟨rfl, rfl⟩ | ⟨rfl, rfl⟩ | ⟨rfl, rfl⟩ | ⟨rfl, rfl⟩ | ⟨rfl, rfl⟩
  · exact (decode_opSetwin rest).trans (decodeFW_incomplete (by omega))
  · exact (decode_opWrpix rest).trans (decodeFC_incomplete (by omega))
  · exact (decode_opFill rest).trans (decodeFC_incomplete (by omega))
  · exact (decode_opDrawpix rest).trans (decodeFP_incomplete (by omega))
  · exact (decode_opDrawchar rest).trans (decodeFG_incomplete (by omega))
  · exact (decode_opColinit rest).trans (decodeFN_incomplete (by omega))

/-- Settles O6: each of the cycle's checks before a command's own rule, the operand decoders waiting for the bytes their
format counts. -/
theorem stepWaitsForAWholeCommand : Obligations.StepWaitsForAWholeCommand := by
  refine ⟨fun s hs => step_of_stopped hs, fun s hs hcp => step_of_noOpcode hs (List.drop_eq_nil_of_le hcp),
    fun s op rest n hs hd hop hn => ?_, fun s rest hs hd hlen => ?_⟩
  · exact step_of_incomplete hs (hd ▸ decode_incomplete hop hn)
  · exact step_of_incomplete hs (hd ▸ (decode_opDrawstr rest).trans (decodeFS_incomplete hlen))

/-- Settles O8: every instruction's meaning is a next state. -/
theorem everyInstructionAnswersANextState : Obligations.EveryInstructionAnswersANextState := by
  intro i s
  obtain ⟨t, ht, -⟩ := exec_form i s
  exact ⟨t, ht⟩

end Sys2Proof.Machine
end

section
/-! The meaning of each instruction as a function of the state, said once for every state; and what can be said of a
rule from its parts. -/

namespace Sys2Proof.Machine

/-- The drawing commands, each with the plan it performs in `READY`. -/
inductive DrawingPlan : Instr → (Config → List Action) → Prop where
  | setwin (x0 y0 x1 y1 : Half) : DrawingPlan (.setwin x0 y0 x1 y1) fun _ => setWindowPlan x0 y0 x1 y1
  | wrpix (c : Half) : DrawingPlan (.wrpix c) fun _ => writePixelPlan c
  | fill (c : Half) : DrawingPlan (.fill c) fun _ => fillPlan c
  | clear (c : Half) : DrawingPlan (.clear c) fun _ => fillPlan c
  | fillscreen (c : Half) : DrawingPlan (.fillscreen c) fun _ => fillPlan c
  | drawpix (x y c : Half) : DrawingPlan (.drawpix x y c) fun _ => drawPixelPlan x y c
  | drawchar (x y : Half) (code : Byte) (fg bg : Half) :
      DrawingPlan (.drawchar x y code fg bg) fun cfg => drawCharPlan cfg x y code fg bg
  | drawstr (x y fg bg : Half) (text : List Byte) :
      DrawingPlan (.drawstr x y fg bg text) fun cfg => drawStringPlan cfg y fg bg x.toNat text

/-- The instructions of the sixteen commands of `INIT_TABLE` (R57). -/
def initInstrs : List (Instr × PanelCmd) :=
  [(.swreset, .swreset), (.slpout, .slpout), (.frmctr1, .frmctr1), (.frmctr2, .frmctr2), (.frmctr3, .frmctr3),
   (.pwctr1, .pwctr1), (.pwctr2, .pwctr2), (.pwctr3, .pwctr3), (.pwctr4, .pwctr4), (.pwctr5, .pwctr5),
   (.vmctr1, .vmctr1), (.colmod, .colmod), (.madctl, .madctl), (.gmctrp1, .gmctrp1), (.gmctrn1, .gmctrn1),
   (.dispon, .dispon)]

/-- The controller commands, each with the plan of its emission (R57). -/
inductive ControllerPlan : Instr → (Config → List Action) → Prop where
  | init {i : Instr} {c : PanelCmd} (h : (i, c) ∈ initInstrs) :
      ControllerPlan i fun cfg => initStepPlan (initEntry cfg.initTable c)
  | caset (first last : Half) : ControllerPlan (.caset first last) fun _ => casetPlan first last
  | raset (first last : Half) : ControllerPlan (.raset first last) fun _ => rasetPlan first last
  | ramwr : ControllerPlan .ramwr fun _ => sendCmd .ramwr

/-- What each instruction does to a state. -/
inductive Meaning : Instr → (State → State) → Prop where
  | init : Meaning .init (hostCommand (instrLength .init) doInit)
  | colinit (n : Byte) : Meaning (.colinit n) (hostCommand (instrLength (.colinit n)) (doColinit n))
  | tick : Meaning .tick (hostCommand (instrLength .tick) (needReady doTick))
  | reserved (op : Byte) : Meaning (.reserved op) (errorAction .illegalOpcode)
  | drawing {i : Instr} {plan : Config → List Action} (h : DrawingPlan i plan) :
      Meaning i (hostCommand (instrLength i) (needReady fun u => perform (plan u.cfg) u))
  | controller {i : Instr} {plan : Config → List Action} (h : ControllerPlan i plan) :
      Meaning i fun s => settle (perform (plan s.cfg) s)

/-- The instruction of a command of `INIT_TABLE` emits the command's entry. -/
theorem meaning_initInstr {i : Instr} {c : PanelCmd} (h : (i, c) ∈ initInstrs) (s : State) :
    exec i s = .next (settle (perform (initStepPlan (initEntry s.cfg.initTable c)) s)) := by
  simp only [initInstrs, List.mem_cons, Prod.mk.injEq, List.not_mem_nil, or_false] at h
  rcases h with ⟨rfl, rfl⟩ | ⟨rfl, rfl⟩ | ⟨rfl, rfl⟩ | ⟨rfl, rfl⟩ | ⟨rfl, rfl⟩ | ⟨rfl, rfl⟩ | ⟨rfl, rfl⟩ | ⟨rfl, rfl⟩ |
    ⟨rfl, rfl⟩ | ⟨rfl, rfl⟩ | ⟨rfl, rfl⟩ | ⟨rfl, rfl⟩ | ⟨rfl, rfl⟩ | ⟨rfl, rfl⟩ | ⟨rfl, rfl⟩ | ⟨rfl, rfl⟩ <;> rfl

/-- Every instruction has a meaning, the same from every state. -/
theorem exec_meaning (i : Instr) : ∃ f, Meaning i f ∧ ∀ s, exec i s = .next (f s) := by
  by_cases hinit : ∃ c, (i, c) ∈ initInstrs
  · obtain ⟨c, hc⟩ := hinit
    exact ⟨_, .controller (.init hc), meaning_initInstr hc⟩
  cases i
  case init => exact ⟨_, .init, fun _ => rfl⟩
  case colinit n => exact ⟨_, .colinit n, fun _ => rfl⟩
  case tick => exact ⟨_, .tick, fun _ => rfl⟩
  case reserved op => exact ⟨_, .reserved op, fun _ => rfl⟩
  case setwin x0 y0 x1 y1 => exact ⟨_, .drawing (.setwin x0 y0 x1 y1), fun _ => rfl⟩
  case wrpix c => exact ⟨_, .drawing (.wrpix c), fun _ => rfl⟩
  case fill c => exact ⟨_, .drawing (.fill c), fun _ => rfl⟩
  case clear c => exact ⟨_, .drawing (.clear c), fun _ => rfl⟩
  case fillscreen c => exact ⟨_, .drawing (.fillscreen c), fun _ => rfl⟩
  case drawpix x y c => exact ⟨_, .drawing (.drawpix x y c), fun _ => rfl⟩
  case drawchar x y code fg bg => exact ⟨_, .drawing (.drawchar x y code fg bg), fun _ => rfl⟩
  case drawstr x y fg bg text => exact ⟨_, .drawing (.drawstr x y fg bg text), fun _ => rfl⟩
  case caset first last => exact ⟨_, .controller (.caset first last), fun _ => rfl⟩
  case raset first last => exact ⟨_, .controller (.raset first last), fun _ => rfl⟩
  case ramwr => exact ⟨_, .controller .ramwr, fun _ => rfl⟩
  all_goals exact absurd (by simp [initInstrs]) hinit

/-- The controller commands are not in the host's stream (R57). -/
theorem ControllerPlan.not_host {i : Instr} {plan : Config → List Action} (h : ControllerPlan i plan) :
    i.isHostCommand = false := by
  cases h with
  | init h =>
    have hnone : ∀ p ∈ initInstrs, p.1.isHostCommand = false := by decide
    exact hnone _ h
  | caset | raset | ramwr => rfl

theorem meaning_of_exec {i : Instr} {s t : State} (h : exec i s = .next t) : ∃ f, Meaning i f ∧ t = f s := by
  obtain ⟨f, hf, hexec⟩ := exec_meaning i
  cases (hexec s).symm.trans h
  exact ⟨f, hf, rfl⟩

/-! ## What can be said of a rule from its parts

`Q s r` says of a rule begun in `s` that it has come to `r`. -/

/-- `Q` holds of the rule that does nothing, and of two rules one after the other. -/
structure RuleLaw (Q : State → Run → Prop) : Prop where
  done  : ∀ s, Q s (.ok s)
  trans : ∀ {s t r}, Q s (.ok t) → Q t r → Q s r

/-- The lists a draw of the animation is asked for (R79, R81, R82). -/
def askedLists (cfg : Config) : List (List Nat) :=
  [alphabetChoices cfg, headChoices, tailChoices, speedChoices, fcChoices]

/-- And of the parts of the animation. -/
structure AnimationLaw (Q : State → Run → Prop) : Prop extends RuleLaw Q where
  char   : ∀ x y code fg bg s, Q s (perform (drawCharPlan s.cfg x y code fg bg) s)
  draw   : ∀ l s, l ∈ askedLists s.cfg → Q s (.ok (s.afterDraw l))
  setCol : ∀ c k s, Q s (.ok (s.setCol c k))

variable {Q : State → Run → Prop}

namespace RuleLaw

theorem andThen (hQ : RuleLaw Q) {s : State} {r : Run} {f : State → Run} (hr : Q s r) (hf : ∀ t, Q t (f t)) :
    Q s (r.andThen f) := by
  cases r with
  | ok t => exact hQ.trans hr (hf t)
  | raised e t => exact hr

theorem forEach (hQ : RuleLaw Q) {α : Type} {body : α → State → Run} (h : ∀ a s, Q s (body a s)) (l : List α)
    (s : State) : Q s (forEach body l s) := by
  induction l generalizing s with
  | nil => exact hQ.done s
  | cons a l ih => exact hQ.andThen (h a s) ih

theorem needReady {body : State → Run} {s : State} (hreject : Q s (.raised .stateError s)) (hbody : Q s (body s)) :
    Q s (needReady body s) := by
  by_cases hs : s.state = .ready
  · rwa [needReady_ready hs]
  · rwa [needReady_other hs]

end RuleLaw

namespace AnimationLaw

theorem initColumn (hQ : AnimationLaw Q) (c : Fin 21) (s : State) : Q s (initColumn c s) :=
  hQ.trans (hQ.draw headChoices s (by simp [askedLists])) <|
    hQ.trans (hQ.draw tailChoices _ (by simp [askedLists])) <|
    hQ.trans (hQ.draw speedChoices _ (by simp [askedLists])) <|
    hQ.trans (hQ.draw fcChoices _ (by simp [askedLists])) <| hQ.setCol c _ _

theorem paintCell (hQ : AnimationLaw Q) (c : Fin 21) (i : Nat) (s : State) : Q s (paintCell c i s) := by
  simp only [Machine.paintCell]
  split
  · exact hQ.trans (hQ.draw _ s (by simp [askedLists])) (hQ.char _ _ _ _ _ _)
  · exact hQ.done s

theorem paintTail (hQ : AnimationLaw Q) (c : Fin 21) (i : Nat) (s : State) : Q s (paintTail c i s) := by
  induction i generalizing s with
  | zero => exact hQ.paintCell c 0 s
  | succ i ih => exact hQ.andThen (hQ.paintCell c (i + 1) s) ih

theorem respawn (hQ : AnimationLaw Q) (c : Fin 21) (s : State) : Q s (.ok (respawn c s)) :=
  hQ.trans (hQ.draw tailChoices s (by simp [askedLists])) <|
    hQ.trans (hQ.draw speedChoices _ (by simp [askedLists])) <| hQ.setCol c _ _

theorem moveHead (hQ : AnimationLaw Q) (c : Fin 21) (s : State) : Q s (.ok (moveHead c s)) := by
  simp only [Machine.moveHead]
  split
  · exact hQ.trans (hQ.setCol c _ s) (hQ.respawn c _)
  · exact hQ.setCol c _ s

theorem advance (hQ : AnimationLaw Q) (c : Fin 21) (s : State) : Q s (advance c s) :=
  hQ.andThen (hQ.paintTail c _ s) fun t => hQ.moveHead c t

theorem tickColumn (hQ : AnimationLaw Q) (c : Fin 21) (s : State) : Q s (tickColumn c s) := by
  simp only [Machine.tickColumn]
  split
  · exact hQ.trans (hQ.setCol c _ s) (hQ.advance c _)
  · exact hQ.setCol c _ s

theorem doTick (hQ : AnimationLaw Q) (s : State) : Q s (doTick s) := hQ.forEach hQ.tickColumn _ s

theorem doColinit (hQ : AnimationLaw Q) {n : Byte} {s : State} (hreject : Q s (.raised .rangeError s))
    (hncols : ∀ t, Q t (.ok { t with ncols := n })) : Q s (doColinit n s) := by
  by_cases hn : n.toNat ≤ 21
  · rw [doColinit_inRange hn]
    exact hQ.andThen (hQ.forEach hQ.initColumn _ s) hncols
  · rw [doColinit_outOfRange (Nat.lt_of_not_le hn)]
    exact hreject

end AnimationLaw

end Sys2Proof.Machine
end

section
/-! `CP` (R20, R48, R52): no rule writes it, and the cycle adds the length of the command that ended. -/

namespace Sys2Proof.Machine

/-- The rule has left `CP` alone. -/
def CpKept (s : State) (r : Run) : Prop := r.state.cp = s.cp

theorem cpKept_animation : AnimationLaw CpKept where
  done _ := rfl
  trans h k := Eq.trans k h
  char _ _ _ _ _ s := (perform_frame _ s).2.2.2
  draw _ _ _ := rfl
  setCol _ _ _ := rfl

theorem doInit_cp (s : State) : CpKept s (doInit s) := by
  unfold doInit
  split
  · have hp : CpKept s (perform (initPlan s.cfg.initTable) { s with state := .initializing }) :=
      (perform_frame _ _).2.2.2
    exact cpKept_animation.andThen hp fun _ => rfl
  · rfl

theorem errorAction_cp (e : Error) (s : State) : (errorAction e s).cp = s.cp := by cases e <;> rfl

theorem settle_cp (r : Run) : (settle r).cp = r.state.cp := by
  cases r with
  | ok t => rfl
  | raised e t => exact errorAction_cp e t

theorem hostCommand_cp {len : Nat} {body : State → Run} (h : ∀ u, CpKept u (body u)) (s : State) :
    (hostCommand len body s).cp = s.cp + len := by
  simp only [hostCommand, settle_cp, h { s with result := .ok } |>.trans rfl]

/-- What the end of an instruction adds to `CP`: nothing at a reserved opcode (R93) and for a controller command, which
is not in the stream (R57). -/
def cpAdvance : Instr → Nat
  | .reserved _ => 0
  | i => if i.isHostCommand then instrLength i else 0

theorem cpAdvance_drawing {i : Instr} {plan : Config → List Action} (h : DrawingPlan i plan) :
    cpAdvance i = instrLength i := by
  cases h <;> rfl

theorem cpAdvance_controller {i : Instr} {plan : Config → List Action} (h : ControllerPlan i plan) :
    cpAdvance i = 0 := by
  have hnot := h.not_host
  unfold cpAdvance
  split
  · cases hnot
  · simp [hnot]

theorem exec_cp {i : Instr} {s t : State} (h : exec i s = .next t) : t.cp = s.cp + cpAdvance i := by
  obtain ⟨f, hf, rfl⟩ := meaning_of_exec h
  cases hf with
  | init => exact hostCommand_cp doInit_cp s
  | colinit n => exact hostCommand_cp (fun u => cpKept_animation.doColinit rfl fun _ => rfl) s
  | tick => exact hostCommand_cp (fun u => RuleLaw.needReady rfl (cpKept_animation.doTick u)) s
  | reserved op => rfl
  | drawing hplan =>
    rw [cpAdvance_drawing hplan]
    exact hostCommand_cp (fun u => RuleLaw.needReady rfl (perform_frame _ u).2.2.2) s
  | controller hplan =>
    rw [cpAdvance_controller hplan, settle_cp]
    exact (perform_frame _ s).2.2.2

/-- Settles O7: no rule writes `CP`, whatever it raises, and the cycle adds the command's length. -/
theorem cpAdvancesByTheCommandsLength : Obligations.CpAdvancesByTheCommandsLength := by
  intro i s t h
  rw [exec_cp h]
  cases i <;> rfl

/-- The cycle adds the number of the bytes the decoder read, but for a reserved opcode. -/
theorem cpAdvance_expand {i : Instr} (hhost : i.isHostCommand = true) :
    cpAdvance i.expand = match i with | .reserved _ => 0 | _ => (encode i).length := by
  cases i
  case drawstr x y fg bg text => exact (encode_length (.drawstr x y fg bg text)).symm
  case init | setwin | wrpix | fill | drawpix | drawchar | colinit | tick | reserved | clear | fillscreen => rfl
  all_goals exact absurd hhost Bool.false_ne_true

/-- Settles O5: the step is the decoded instruction's execution, and the bytes of a well-formed host command decode to
its expansion. -/
theorem stepRunsTheCommandAtCp : Obligations.StepRunsTheCommandAtCp := by
  refine ⟨fun s i rest hs hd => step_of_decode hs hd, fun s i rest hs hhost hwf hstream => ?_⟩
  have hstep : step s = exec i.expand s := step_of_decode hs (hstream ▸ decode_encode hhost hwf rest)
  obtain ⟨t, ht, -⟩ := exec_form i.expand s
  refine ⟨hstep, t, hstep.trans ht, ?_⟩
  rw [exec_cp ht, cpAdvance_expand hhost]
  cases i <;> rfl

end Sys2Proof.Machine
end

section
/-! The shape of the plans on the panel interface: every plan but the reset pulse is a sequence of sent commands, sent
data and waits (R30, R31, R61, R64 to R75). -/

namespace Sys2Proof.Machine

/-- The plan sends commands of `C`, data and waits, one after another. -/
inductive Sends (C : List PanelCmd) : List Action → Prop where
  | nil : Sends C []
  | cmd {c : PanelCmd} {p : List Action} (hc : c ∈ C) (hp : Sends C p) : Sends C (sendCmd c ++ p)
  | data (bs : List Byte) {p : List Action} (hp : Sends C p) : Sends C (sendData bs ++ p)
  | delay (n : Nat) {p : List Action} (hp : Sends C p) : Sends C (.delay n :: p)

/-- The commands of `DoSetWindow` (R64). -/
def windowCmds : List PanelCmd := [.caset, .raset, .ramwr]

namespace Sends

variable {C : List PanelCmd} {p q : List Action}

theorem sendCmd {c : PanelCmd} (hc : c ∈ C) : Sends C (sendCmd c) := cmd hc nil

theorem sendData (bs : List Byte) : Sends C (sendData bs) := data bs nil

theorem append (hp : Sends C p) (hq : Sends C q) : Sends C (p ++ q) := by
  induction hp with
  | nil => exact hq
  | cmd hc _ ih => exact List.append_assoc .. ▸ cmd hc ih
  | data bs _ ih => exact List.append_assoc .. ▸ data bs ih
  | delay n _ ih => exact delay n ih

theorem flatMap {α : Type} {f : α → List Action} {l : List α} (h : ∀ a ∈ l, Sends C (f a)) : Sends C (l.flatMap f) := by
  induction l with
  | nil => exact nil
  | cons a l ih => exact append (h a List.mem_cons_self) (ih fun b hb => h b (List.mem_cons_of_mem a hb))

/-! ## The plans -/

theorem caset (first last : Half) : Sends windowCmds (casetPlan first last) :=
  append (sendCmd (by decide)) (sendData _)

theorem raset (first last : Half) : Sends windowCmds (rasetPlan first last) :=
  append (sendCmd (by decide)) (sendData _)

theorem setWindow (x0 y0 x1 y1 : Half) : Sends windowCmds (setWindowPlan x0 y0 x1 y1) :=
  ((caset _ _).append (raset _ _)).append (sendCmd (by decide))

theorem writePixel (c : Half) : Sends windowCmds (writePixelPlan c) := sendData _

theorem pixelRun (n : Nat) (c : Half) : Sends windowCmds (pixelRunPlan n c) := by
  induction n with
  | zero => exact nil
  | succ n ih => exact (writePixel c).append ih

theorem fill (c : Half) : Sends windowCmds (fillPlan c) := (setWindow _ _ _ _).append (pixelRun _ c)

theorem drawPixel (x y c : Half) : Sends windowCmds (drawPixelPlan x y c) := by
  unfold drawPixelPlan
  split
  · exact nil
  · exact (setWindow _ _ _ _).append (writePixel c)

theorem drawChar (cfg : Config) (x y : Half) (code : Byte) (fg bg : Half) :
    Sends windowCmds (drawCharPlan cfg x y code fg bg) := by
  unfold drawCharPlan
  split
  · exact (flatMap fun k _ => flatMap fun r _ => drawPixel _ _ _).append (flatMap fun r _ => drawPixel _ _ _)
  · exact nil

theorem drawString (cfg : Config) (y fg bg : Half) (cx : Nat) (text : List Byte) :
    Sends windowCmds (drawStringPlan cfg y fg bg cx text) := by
  induction text generalizing cx with
  | nil => exact nil
  | cons code text ih =>
    rw [drawStringPlan]
    split
    · exact nil
    · exact (drawChar _ _ _ _ _ _).append (ih _)

theorem initStep {st : InitStep} (h : st.cmd ∈ C) : Sends C (initStepPlan st) := by
  refine ((sendCmd h).append ?_).append ?_
  · split
    · exact nil
    · exact sendData _
  · split
    · exact nil
    · exact delay _ nil

/-- Every drawing command's plan sends window commands and pixels only. -/
theorem drawing {i : Instr} {plan : Config → List Action} (h : DrawingPlan i plan) (cfg : Config) :
    Sends windowCmds (plan cfg) := by
  cases h with
  | setwin => exact setWindow _ _ _ _
  | wrpix c => exact writePixel c
  | fill c | clear c | fillscreen c => exact fill c
  | drawpix => exact drawPixel _ _ _
  | drawchar => exact drawChar _ _ _ _ _ _
  | drawstr => exact drawString _ _ _ _ _ _

end Sends

/-- What holds of sending a command of `C`, sending data and waiting, and of rules put together. -/
structure SendLaw (C : List PanelCmd) (Q : State → Run → Prop) : Prop extends RuleLaw Q where
  cmd   : ∀ c ∈ C, ∀ s, Q s (perform (sendCmd c) s)
  data  : ∀ bs s, Q s (perform (sendData bs) s)
  delay : ∀ n s, Q s (.ok (s.emit (.delay n)))

variable {C : List PanelCmd} {Q : State → Run → Prop}

/-- It holds of performing every plan that sends commands of `C`. -/
theorem SendLaw.perform (hQ : SendLaw C Q) {p : List Action} (hp : Sends C p) (s : State) : Q s (perform p s) := by
  induction hp generalizing s with
  | nil => exact hQ.done s
  | cmd hc _ ih => exact perform_append .. ▸ hQ.andThen (hQ.cmd _ hc s) ih
  | data bs _ ih => exact perform_append .. ▸ hQ.andThen (hQ.data bs s) ih
  | delay n _ ih => exact hQ.trans (hQ.delay n s) (ih _)

/-- What holds of the window commands, of draws and of writing a column holds of the animation. -/
theorem SendLaw.animation (hQ : SendLaw windowCmds Q)
    (hdraw : ∀ l s, l ∈ askedLists s.cfg → Q s (.ok (s.afterDraw l))) (hcol : ∀ c k s, Q s (.ok (s.setCol c k))) :
    AnimationLaw Q where
  toRuleLaw := hQ.toRuleLaw
  char x y code fg bg s := hQ.perform (.drawChar s.cfg x y code fg bg) s
  draw := hdraw
  setCol := hcol

/-! ## One transfer -/

/-- What sending a command comes to (R29, R30). -/
theorem perform_sendCmd (c : PanelCmd) (s : State) :
    perform (sendCmd c) s = .ok ((s.setLine (.dc .command)).txOk [cmdByte c]) ∨
    ∃ n, s.replyAt s.txCount = .fail n ∧
      perform (sendCmd c) s = .raised .transportFail ((s.setLine (.dc .command)).txFail [cmdByte c] n) := by
  simp only [sendCmd, perform, State.setLine_txCount, State.replyAt_congr (State.setLine_env _ s)]
  cases s.replyAt s.txCount with
  | ok => exact .inl rfl
  | fail n => exact .inr ⟨n, rfl, rfl⟩

/-- What sending data comes to (R29, R31). -/
theorem perform_sendData (bs : List Byte) (s : State) :
    perform (sendData bs) s = .ok ((s.setLine (.dc .data)).txOk bs) ∨
    ∃ n, s.replyAt s.txCount = .fail n ∧
      perform (sendData bs) s = .raised .transportFail ((s.setLine (.dc .data)).txFail bs n) := by
  simp only [sendData, perform, State.setLine_txCount, State.replyAt_congr (State.setLine_env _ s)]
  cases s.replyAt s.txCount with
  | ok => exact .inl rfl
  | fail n => exact .inr ⟨n, rfl, rfl⟩

end Sys2Proof.Machine
end

section
/-! `STATE` and the lines (R13 to R19): a rule outside `INIT` drives no line but DC and writes no `STATE`, so `STATE`
changes only when `INIT` ends and when a transfer fails. -/

namespace Sys2Proof.Machine

/-- The rule has raised nothing but `TransportFail`. -/
def Run.TransportOnly : Run → Prop
  | .ok _ => True
  | .raised e _ => e = .transportFail

/-- The rule has written neither `STATE` nor `RESULT` nor RST nor CS, and has raised nothing but `TransportFail`. -/
structure Quiet (s : State) (r : Run) : Prop where
  state  : r.state.state = s.state
  result : r.state.result = s.result
  rst    : r.state.lines.rst = s.lines.rst
  cs     : r.state.lines.cs = s.lines.cs
  raises : r.TransportOnly

theorem quiet_send (C : List PanelCmd) : SendLaw C Quiet where
  done s := ⟨rfl, rfl, rfl, rfl, trivial⟩
  trans h k :=
    ⟨k.state.trans h.state, k.result.trans h.result, k.rst.trans h.rst, k.cs.trans h.cs, k.raises⟩
  cmd c _ s := by
    rcases perform_sendCmd c s with h | ⟨n, -, h⟩ <;> rw [h]
    · exact ⟨rfl, rfl, rfl, rfl, trivial⟩
    · exact ⟨rfl, rfl, rfl, rfl, rfl⟩
  data bs s := by
    rcases perform_sendData bs s with h | ⟨n, -, h⟩ <;> rw [h]
    · exact ⟨rfl, rfl, rfl, rfl, trivial⟩
    · exact ⟨rfl, rfl, rfl, rfl, rfl⟩
  delay n s := ⟨rfl, rfl, rfl, rfl, trivial⟩

theorem quiet_animation : AnimationLaw Quiet :=
  (quiet_send windowCmds).animation (fun _ _ _ => ⟨rfl, rfl, rfl, rfl, trivial⟩)
    fun _ _ _ => ⟨rfl, rfl, rfl, rfl, trivial⟩

/-- R14: what a host command does to `STATE` and to the lines RST and CS. -/
inductive Transition (s t : State) : Prop where
  | stays (hstate : t.state = s.state) (hrst : t.lines.rst = s.lines.rst) (hcs : t.lines.cs = s.lines.cs)
  | initialized (hs : s.state = .uninit) (hstate : t.state = .ready) (hresult : t.result = .ok)
      (hrst : t.lines.rst = .released) (hcs : t.lines.cs = .selected)
  | failed (hs : s.state = .uninit ∨ s.state = .ready) (hstate : t.state = .failed) (hresult : t.result = .errTransport)
      (hrst : t.lines.rst = .released ∨ t.lines.rst = s.lines.rst) (hcs : t.lines.cs = .deselected)

/-- A rule that runs in `READY` and does nothing to `STATE` ends there or, when a transfer fails, in `FAILED` (R91). -/
theorem Quiet.transition {s : State} {r : Run} (hs : s.state = .ready) (h : Quiet s r) : Transition s (settle r) := by
  cases r with
  | ok t => exact .stays h.state h.rst h.cs
  | raised e t =>
    cases h.raises
    exact .failed (.inr hs) rfl rfl (.inr h.rst) rfl

/-- The transition is the rule's: the cycle's own part of a command writes `RESULT` before it and `CP` after it. -/
theorem hostCommand_transition {len : Nat} {body : State → Run} {s : State}
    (h : Transition { s with result := .ok } (settle (body { s with result := .ok }))) :
    Transition s (hostCommand len body s) := by
  cases h with
  | stays hstate hrst hcs => exact .stays hstate hrst hcs
  | initialized hs hstate hresult hrst hcs => exact .initialized hs hstate hresult hrst hcs
  | failed hs hstate hresult hrst hcs => exact .failed hs hstate hresult hrst hcs

theorem needReady_transition {body : State → Run} {s : State} (h : Quiet s (body s)) :
    Transition s (settle (needReady body s)) := by
  by_cases hs : s.state = .ready
  · rw [needReady_ready hs]
    exact h.transition hs
  · rw [needReady_other hs]
    exact .stays rfl rfl rfl

/-- The reset pulse makes no transfer (R60), so it runs to its end. -/
theorem perform_initPlan (table : List InitStep) (s : State) :
    perform (initPlan table) s = perform (table.flatMap initStepPlan) (s.afterPlan resetPulsePlan) := rfl

/-- The table's steps after the reset pulse (R61). -/
theorem quiet_initSteps (table : List InitStep) (s : State) : Quiet s (perform (table.flatMap initStepPlan) s) :=
  (quiet_send (table.map InitStep.cmd)).perform (.flatMap fun _ hst => .initStep (List.mem_map_of_mem hst)) s

/-- R61: the reset pulse leaves RST released and CS selected, and the table's steps drive neither. -/
theorem doInit_transition {s : State} (hresult : s.result = .ok) : Transition s (settle (doInit s)) := by
  by_cases hs : s.state = .uninit
  · rw [doInit_uninit hs, perform_initPlan]
    have hquiet := quiet_initSteps s.cfg.initTable ({ s with state := .initializing }.afterPlan resetPulsePlan)
    revert hquiet
    cases perform (s.cfg.initTable.flatMap initStepPlan) ({ s with state := .initializing }.afterPlan resetPulsePlan) with
    | ok t => exact fun hquiet => .initialized hs rfl (hquiet.result.trans hresult) hquiet.rst hquiet.cs
    | raised e t =>
      intro hquiet
      cases hquiet.raises
      exact .failed (.inl hs) rfl rfl (.inl hquiet.rst) rfl
  · rw [doInit_other hs]
    exact .stays rfl rfl rfl

theorem doColinit_transition (n : Byte) (s : State) : Transition s (settle (doColinit n s)) := by
  by_cases hn : n.toNat ≤ 21
  · rw [doColinit_inRange hn]
    obtain ⟨t, ht⟩ := forEach_initColumn_ok (firstCols n) s
    have hquiet : Quiet s (.ok t) := ht ▸ quiet_animation.forEach quiet_animation.initColumn (firstCols n) s
    rw [ht]
    exact .stays hquiet.state hquiet.rst hquiet.cs
  · rw [doColinit_outOfRange (Nat.lt_of_not_le hn)]
    exact .stays rfl rfl rfl

theorem exec_transition {i : Instr} {s t : State} (hhost : i.isHostCommand = true) (h : exec i s = .next t) :
    Transition s t := by
  obtain ⟨f, hf, rfl⟩ := meaning_of_exec h
  cases hf with
  | init => exact hostCommand_transition (doInit_transition rfl)
  | colinit n => exact hostCommand_transition (doColinit_transition n _)
  | tick => exact hostCommand_transition (needReady_transition (quiet_animation.doTick _))
  | reserved op => exact .stays rfl rfl rfl
  | drawing hplan =>
    exact hostCommand_transition (needReady_transition ((quiet_send windowCmds).perform (.drawing hplan _) _))
  | controller hplan => rw [hplan.not_host] at hhost; cases hhost

/-- A step runs a host command (R48, R57). -/
theorem step_hostCommand {s t : State} (h : step s = .next t) :
    s.stopped = false ∧ ∃ i, i.isHostCommand = true ∧ exec i s = .next t := by
  obtain ⟨hs, i, rest, hdec, hexec⟩ := step_eq_next h
  obtain ⟨-, -, hhost, -⟩ := decode_ok_bytes hdec
  exact ⟨hs, i, hhost, hexec⟩

end Sys2Proof.Machine
end

section
/-! The statements of 10_state.md on `STATE` and the lines settled here. -/

namespace Sys2Proof.Machine

/-- R17: a step leaves the block running, or stopped with `ERR_ILLEGAL`. -/
theorem exec_stopped_result {i : Instr} {s t : State} (hs : s.stopped = false) (h : exec i s = .next t)
    (ht : t.stopped = true) : t.result = .errIllegal := by
  by_cases hr : ∃ op, i = .reserved op
  · obtain ⟨op, rfl⟩ := hr
    rw [exec_reserved h]
    rfl
  · rw [exec_stopped (not_exists.1 hr) h, hs] at ht
    cases ht

/-- Settles O53: each transition of `STATE` brings the lines with it, and only a reserved opcode sets `STOPPED`. -/
theorem everyStepKeepsTheLifecycleLegal : Obligations.EveryStepKeepsTheLifecycleLegal := by
  intro s t hlegal h
  obtain ⟨hrunning, i, hhost, hexec⟩ := step_hostCommand h
  obtain ⟨hinit, hrst, hcs, -⟩ := hlegal
  have hstopped := exec_stopped_result hrunning hexec
  cases exec_transition hhost hexec with
  | stays hstate hrst' hcs' =>
    exact ⟨hstate ▸ hinit, hrst'.trans hrst, by rw [hcs', hstate, hcs], hstopped⟩
  | initialized _ hstate _ hrst' hcs' =>
    exact ⟨by simp [hstate], hrst', iff_of_true hcs' hstate, hstopped⟩
  | failed _ hstate _ hrst' hcs' =>
    exact ⟨by simp [hstate], hrst'.elim id fun h => h.trans hrst, by simp [hcs', hstate], hstopped⟩

/-- Settles O49: a rule writes `STATE` only at the end of `INIT` and by the action of a failed transfer. -/
theorem lifecycleHasNoOtherTransition : Obligations.LifecycleHasNoOtherTransition := by
  intro s t h hne
  obtain ⟨-, i, hhost, hexec⟩ := step_hostCommand h
  cases exec_transition hhost hexec with
  | stays hstate => exact absurd hstate hne
  | initialized hs hstate hresult => exact .inl ⟨hs, hstate, hresult⟩
  | failed hs hstate hresult =>
    rcases hs with hs | hs
    · exact .inr (.inl ⟨hs, hstate, hresult⟩)
    · exact .inr (.inr ⟨hs, hstate, hresult⟩)

/-- Settles O9, by the reset state's definition. -/
theorem resetLeavesTheSpecsValues : Obligations.ResetLeavesTheSpecsValues :=
  ⟨rfl, rfl, rfl, rfl, rfl, rfl, rfl⟩

/-- Settles O51: no column is active, the lines and `STATE` are R25's, and the controller's memory lists no cell. -/
theorem resetSatisfiesTheInvariants : Obligations.ResetSatisfiesTheInvariants := by
  have hcols : columnsLegal State.reset := ⟨Nat.zero_le _, fun c hc => absurd hc (Nat.not_lt_zero _)⟩
  have hlife : lifecycleLegal State.reset := ⟨by decide, rfl, by decide, by decide⟩
  have hpanel : panelLegal State.reset := ⟨rfl, fun e he => absurd he List.not_mem_nil, fun b got h => by cases h⟩
  exact ⟨hcols, hlife, hpanel⟩

end Sys2Proof.Machine
end

section
/-! The controller stays legal (R39 to R41): a step reaches it through the panel interface only. -/

namespace Sys2Proof.Machine

/-- The rule has kept a legal controller legal. -/
def PanelKept (s : State) (r : Run) : Prop := panelLegal s → panelLegal r.state

theorem panelKept_animation : AnimationLaw PanelKept where
  done _ := id
  trans h k hs := k (h hs)
  char _ _ _ _ _ _ := perform_panelLegal _
  draw _ _ _ := id
  setCol _ _ _ := id

theorem doInit_panelLegal (s : State) : PanelKept s (doInit s) := by
  unfold doInit
  split
  · have hp : PanelKept s (perform (initPlan s.cfg.initTable) { s with state := .initializing }) :=
      perform_panelLegal _ (s := { s with state := .initializing })
    exact panelKept_animation.andThen hp fun _ => id
  · exact id

theorem settle_panelLegal {r : Run} (h : panelLegal r.state) : panelLegal (settle r) := by
  cases r with
  | ok t => exact h
  | raised e t => exact errorAction_panelLegal e h

theorem hostCommand_panelLegal {len : Nat} {body : State → Run} (hb : ∀ u, PanelKept u (body u)) {s : State}
    (hs : panelLegal s) : panelLegal (hostCommand len body s) :=
  settle_panelLegal (hb { s with result := .ok } hs)

theorem exec_panelLegal {i : Instr} {s t : State} (hs : panelLegal s) (h : exec i s = .next t) : panelLegal t := by
  obtain ⟨f, hf, rfl⟩ := meaning_of_exec h
  cases hf with
  | init => exact hostCommand_panelLegal doInit_panelLegal hs
  | colinit n => exact hostCommand_panelLegal (fun _ => panelKept_animation.doColinit id fun _ => id) hs
  | tick => exact hostCommand_panelLegal (fun u => RuleLaw.needReady id (panelKept_animation.doTick u)) hs
  | reserved op => exact errorAction_panelLegal .illegalOpcode hs
  | drawing _ => exact hostCommand_panelLegal (fun _ => RuleLaw.needReady id (perform_panelLegal _)) hs
  | controller _ => exact settle_panelLegal (perform_panelLegal _ hs)

/-- Settles O54: every operation of the controller's model keeps it legal, and a rule reaches the controller through
these operations only. -/
theorem everyStepKeepsThePanelLegal : Obligations.EveryStepKeepsThePanelLegal := by
  intro s t hs h
  obtain ⟨-, i, -, -, hexec⟩ := step_eq_next h
  exact exec_panelLegal hs hexec

end Sys2Proof.Machine
end

section
/-! The assembler's operands (R55): the fields a number, a character and a text go into, and when each is rejected. -/

namespace Sys2Proof.Machine

@[simp] theorem asmHalf_toNat (v : Half) : asmHalf v.toNat = some v := by
  have hlt : v.toNat < 65536 := v.isLt
  simp [asmHalf, hlt]

theorem asmHalf_outside {v : Nat} (h : 65535 < v) : asmHalf v = none := if_neg (by omega)

@[simp] theorem asmByte_toNat (v : Byte) : asmByte v.toNat = some v := by
  have hlt : v.toNat < 256 := v.isLt
  simp [asmByte, hlt]

theorem asmByte_outside {v : Nat} (h : 255 < v) : asmByte v = none := if_neg (by omega)

theorem asmChar_ascii {c : Char} (h : c.toNat < 128) : asmChar c = some (BitVec.ofNat 8 c.toNat) := if_pos h

theorem asmChar_outside {c : Char} (h : 128 ≤ c.toNat) : asmChar c = none := if_neg (by omega)

section All

variable {α β : Type} {f : α → Option β} {l : List α}

/-- Each element accepted. -/
theorem asmAll_map (g : α → β) (h : ∀ a ∈ l, f a = some (g a)) : asmAll f l = some (l.map g) := by
  induction l with
  | nil => rfl
  | cons a l ih =>
    simp [asmAll, h a List.mem_cons_self, ih fun b hb => h b (List.mem_cons_of_mem a hb)]

/-- One element rejected. -/
theorem asmAll_rejects (h : ∃ a ∈ l, f a = none) : asmAll f l = none := by
  induction l with
  | nil => simp at h
  | cons a l ih =>
    simp only [List.mem_cons, exists_eq_or_imp] at h
    rcases h with h | h
    · simp [asmAll, h]
    · simp [asmAll, ih h]

theorem asmAll_length {bs : List β} (h : asmAll f l = some bs) : bs.length = l.length := by
  induction l generalizing bs with
  | nil => cases h; rfl
  | cons a l ih =>
    simp only [asmAll, Option.bind_eq_some_iff, Option.map_eq_some_iff] at h
    obtain ⟨b, -, rest, hrest, rfl⟩ := h
    simp [ih hrest]

end All

theorem asmText_ascii {text : List Char} (hlen : text.length ≤ 255) (h : ∀ ch ∈ text, ch.toNat < 128) :
    asmText text = some (text.map fun ch => BitVec.ofNat 8 ch.toNat) := by
  rw [asmText, if_pos hlen]
  exact asmAll_map _ fun ch hch => asmChar_ascii (h ch hch)

theorem asmText_rejects {text : List Char} (h : 255 < text.length ∨ ∃ ch ∈ text, 128 ≤ ch.toNat) :
    asmText text = none := by
  unfold asmText
  split
  · next hlen =>
    obtain ⟨ch, hmem, hch⟩ := h.resolve_left (by omega)
    exact asmAll_rejects ⟨ch, hmem, asmChar_outside hch⟩
  · rfl

theorem asmText_length {text : List Char} {bs : List Byte} (h : asmText text = some bs) : bs.length ≤ 255 := by
  unfold asmText at h
  split at h
  · next hlen => exact asmAll_length h ▸ hlen
  · cases h

/-! ## The lines -/

/-- A line that has a command is its command's word. -/
theorem assemble_of_command {line : AsmLine} {i : Instr} (h : line.command = some i) :
    line.assemble = some (encode i) := by
  cases line
  case bytes | comment => cases h
  all_goals exact congrArg (Option.map encode) h

/-- A line's command is a well-formed host command: its text, if it has one, is at most 255 bytes long. -/
theorem command_wellFormed {line : AsmLine} {i : Instr} (h : line.command = some i) :
    i.isHostCommand = true ∧ i.wellFormed = true := by
  cases line <;> simp only [AsmLine.command, Option.bind_eq_some_iff, Option.map_eq_some_iff] at h
  case init | tick => cases h; exact ⟨rfl, rfl⟩
  case wrpix | fill | clear | fillscreen | colinit =>
    obtain ⟨_, _, rfl⟩ := h
    exact ⟨rfl, rfl⟩
  case drawpix =>
    obtain ⟨_, _, _, _, _, _, rfl⟩ := h
    exact ⟨rfl, rfl⟩
  case setwin =>
    obtain ⟨_, _, _, _, _, _, _, _, rfl⟩ := h
    exact ⟨rfl, rfl⟩
  case drawchar =>
    obtain ⟨_, _, _, _, _, _, _, _, _, _, rfl⟩ := h
    exact ⟨rfl, rfl⟩
  case drawstr =>
    obtain ⟨_, _, _, _, _, _, _, _, text, htext, rfl⟩ := h
    exact ⟨rfl, decide_eq_true (asmText_length htext)⟩
  case bytes | comment => cases h

theorem setwin_rejects {x0 y0 x1 y1 : Nat} (h : 65535 < x0 ∨ 65535 < y0 ∨ 65535 < x1 ∨ 65535 < y1) :
    (AsmLine.setwin x0 y0 x1 y1).assemble = none := by
  rcases h with h | h | h | h <;> simp [AsmLine.assemble, AsmLine.command, asmHalf_outside h]

theorem drawpix_rejects {x y c : Nat} (h : 65535 < x ∨ 65535 < y ∨ 65535 < c) :
    (AsmLine.drawpix x y c).assemble = none := by
  rcases h with h | h | h <;> simp [AsmLine.assemble, AsmLine.command, asmHalf_outside h]

theorem drawchar_rejects {x y fg bg : Nat} {code : AsmCode}
    (h : 65535 < x ∨ 65535 < y ∨ 65535 < fg ∨ 65535 < bg ∨
      (∃ v, code = .number v ∧ 255 < v) ∨ (∃ ch, code = .literal ch ∧ 128 ≤ ch.toNat)) :
    (AsmLine.drawchar x y code fg bg).assemble = none := by
  rcases h with h | h | h | h | ⟨v, rfl, h⟩ | ⟨ch, rfl, h⟩
  · simp [AsmLine.assemble, AsmLine.command, asmHalf_outside h]
  · simp [AsmLine.assemble, AsmLine.command, asmHalf_outside h]
  · simp [AsmLine.assemble, AsmLine.command, asmHalf_outside h]
  · simp [AsmLine.assemble, AsmLine.command, asmHalf_outside h]
  · simp [AsmLine.assemble, AsmLine.command, asmCode, asmByte_outside h]
  · simp [AsmLine.assemble, AsmLine.command, asmCode, asmChar_outside h]

theorem drawstr_rejects {x y fg bg : Nat} {text : List Char}
    (h : 65535 < x ∨ 65535 < y ∨ 65535 < fg ∨ 65535 < bg ∨ 255 < text.length ∨ (∃ ch ∈ text, 128 ≤ ch.toNat)) :
    (AsmLine.drawstr x y fg bg text).assemble = none := by
  rcases h with h | h | h | h | h
  · simp [AsmLine.assemble, AsmLine.command, asmHalf_outside h]
  · simp [AsmLine.assemble, AsmLine.command, asmHalf_outside h]
  · simp [AsmLine.assemble, AsmLine.command, asmHalf_outside h]
  · simp [AsmLine.assemble, AsmLine.command, asmHalf_outside h]
  · simp [AsmLine.assemble, AsmLine.command, asmText_rejects h]

/-- A line of one 16-bit operand outside its field. -/
theorem colour_rejects {c : Nat} (h : 65535 < c) :
    (AsmLine.wrpix c).assemble = none ∧ (AsmLine.fill c).assemble = none ∧ (AsmLine.clear c).assemble = none ∧
    (AsmLine.fillscreen c).assemble = none := by
  simp [AsmLine.assemble, AsmLine.command, asmHalf_outside h]

/-- Settles O4: a line's command is well formed, so its word decodes; an operand in its field is read as its value, and
one outside leaves the line without a command. -/
theorem assembledLinesDecodeToTheirCommands : Obligations.AssembledLinesDecodeToTheirCommands := by
  refine ⟨fun line i rest h => ?_, ⟨rfl, rfl, rfl⟩, fun x0 y0 x1 y1 => ?_, fun c => ?_, fun x y c => ?_,
    fun x y fg bg code => ?_, fun x y fg bg ch hch => ?_, fun x y fg bg text hlen htext => ?_, fun n => ?_, fun bs => ?_,
    fun _ _ _ _ => setwin_rejects, fun _ => colour_rejects, fun _ _ _ => drawpix_rejects,
    fun _ _ _ _ _ => drawchar_rejects, fun _ _ _ _ _ => drawstr_rejects, fun n hn => ?_, fun vs ⟨v, hv, hlarge⟩ => ?_⟩
  · obtain ⟨hhost, hwf⟩ := command_wellFormed h
    exact ⟨encode i, assemble_of_command h, decode_encode hhost hwf rest⟩
  · simp [AsmLine.command]
  · simp [AsmLine.command]
  · simp [AsmLine.command]
  · simp [AsmLine.command, asmCode]
  · simp [AsmLine.command, asmCode, asmChar_ascii hch]
  · simp [AsmLine.command, asmText_ascii hlen htext]
  · simp [AsmLine.command]
  · have hbytes : ∀ v ∈ bs.map BitVec.toNat, asmByte v = some (BitVec.ofNat 8 v) := by
      simp
    simp [AsmLine.assemble, asmAll_map _ hbytes, Function.comp_def]
  · simp [AsmLine.assemble, AsmLine.command, asmByte_outside hn]
  · exact asmAll_rejects ⟨v, hv, asmByte_outside hlarge⟩

end Sys2Proof.Machine
end

section
/-! The transfers of an instruction and their answers (R29, R90, R91): all `OK`, or all `OK` up to one `FAIL`, with
which the rule stops. -/

namespace Sys2Proof.Machine

/-! ## Counting the transfers of a trace -/

@[simp] theorem transportWrites_append (e f : List Event) :
    transportWrites (e ++ f) = transportWrites e + transportWrites f := by
  induction e with
  | nil => simp [transportWrites]
  | cons a e ih => cases a <;> simp [transportWrites, ih, Nat.add_right_comm]

@[simp] theorem transportWrites_planEvents (p : List Action) : transportWrites (planEvents p) = planTransfers p := by
  induction p with
  | nil => rfl
  | cons a p ih => cases a <;> simp [planEvents, transportWrites, planTransfers, ih]

theorem noFailure_nil : noFailure [] := fun _ => List.not_mem_nil

theorem noFailure_append {e f : List Event} (he : noFailure e) (hf : noFailure f) : noFailure (e ++ f) :=
  fun bs h => (List.mem_append.1 h).elim (he bs) (hf bs)

theorem noFailure_planEvents (p : List Action) : noFailure (planEvents p) := by
  intro bs
  induction p with
  | nil => exact List.not_mem_nil
  | cons a p ih => cases a <;> simp [planEvents, ih]

theorem State.repliesOk_add {s t : State} {m n : Nat} (he : t.env = s.env) (hc : t.txCount = s.txCount + m)
    (hs : s.repliesOk m) (ht : t.repliesOk n) : s.repliesOk (m + n) := by
  intro k hk
  by_cases hkm : k < m
  · exact hs k hkm
  · have := ht (k - m) (by omega)
    rw [replyAt_congr he, hc] at this
    rwa [show s.txCount + k = s.txCount + m + (k - m) by omega]

/-! ## What a rule has sent -/

/-- `t` is reached from `s` by the events `evs`, whose transfers were all answered `OK`. -/
structure Sent (s t : State) (evs : List Event) : Prop where
  trace   : t.trace = s.trace ++ evs
  ok      : noFailure evs
  replies : s.repliesOk (transportWrites evs)
  txCount : t.txCount = s.txCount + transportWrites evs
  env     : t.env = s.env
  result  : t.result = s.result

theorem Sent.trans {s t u : State} {e f : List Event} (h : Sent s t e) (k : Sent t u f) : Sent s u (e ++ f) where
  trace := by rw [k.trace, h.trace, List.append_assoc]
  ok := noFailure_append h.ok k.ok
  replies := transportWrites_append e f ▸ State.repliesOk_add h.env h.txCount h.replies k.replies
  txCount := by rw [k.txCount, h.txCount, transportWrites_append, Nat.add_assoc]
  env := k.env.trans h.env
  result := k.result.trans h.result

/-- Events other than transfers. -/
theorem Sent.of_noTransfer {s t : State} {evs : List Event} (htrace : t.trace = s.trace ++ evs) (hok : noFailure evs)
    (hnone : transportWrites evs = 0) (hcount : t.txCount = s.txCount) (henv : t.env = s.env)
    (hresult : t.result = s.result) : Sent s t evs :=
  ⟨htrace, hok, fun k hk => absurd (hnone ▸ hk) (Nat.not_lt_zero k), by rw [hnone, hcount, Nat.add_zero], henv, hresult⟩

/-- Nothing at all. -/
theorem Sent.nothing {s t : State} (hlog : t.log = s.log) (hcount : t.txCount = s.txCount) (henv : t.env = s.env)
    (hresult : t.result = s.result) : Sent s t [] :=
  .of_noTransfer (by simp [State.trace, hlog]) noFailure_nil rfl hcount henv hresult

/-- `t` is reached from `s` by the events `evs`, answered `OK`, and a transfer answered `FAIL` after them. -/
structure Broken (s t : State) (evs : List Event) (bs : List Byte) : Prop where
  trace   : t.trace = s.trace ++ evs ++ [.tx bs .fail]
  ok      : noFailure evs
  fails   : s.failsAfter (transportWrites evs)
  txCount : t.txCount = s.txCount + transportWrites evs + 1

/-- R29, R90: a rule goes on as long as its transfers are answered `OK`, and raises `TransportFail` with nothing done
after one that is not. -/
def Delivered (s : State) : Run → Prop
  | .ok t => ∃ evs, Sent s t evs
  | .raised .transportFail t => ∃ evs bs, Broken s t evs bs
  | .raised .stateError t | .raised .illegalOpcode t | .raised .rangeError t => ∃ evs, Sent s t evs

theorem Sent.broken {s t u : State} {e f : List Event} {bs : List Byte} (h : Sent s t e) (k : Broken t u f bs) :
    Broken s u (e ++ f) bs where
  trace := by rw [k.trace, h.trace]; simp only [List.append_assoc]
  ok := noFailure_append h.ok k.ok
  fails := by
    obtain ⟨hreplies, reached, hfail⟩ := k.fails
    rw [transportWrites_append]
    refine ⟨State.repliesOk_add h.env h.txCount h.replies hreplies, reached, ?_⟩
    rwa [← Nat.add_assoc, ← h.txCount, ← State.replyAt_congr h.env]
  txCount := by rw [k.txCount, h.txCount, transportWrites_append]; omega

theorem delivered_ruleLaw : RuleLaw Delivered where
  done s := ⟨[], .nothing rfl rfl rfl rfl⟩
  trans {s t r} h k := by
    obtain ⟨e, he⟩ := h
    cases r with
    | ok u =>
      obtain ⟨f, hf⟩ := k
      exact ⟨e ++ f, he.trans hf⟩
    | raised err u =>
      cases err with
      | transportFail =>
        obtain ⟨f, bs, hf⟩ := k
        exact ⟨e ++ f, bs, he.broken hf⟩
      | stateError | illegalOpcode | rangeError =>
        obtain ⟨f, hf⟩ := k
        exact ⟨e ++ f, he.trans hf⟩

theorem afterPlan_sent {p : List Action} {s : State} (h : s.repliesOk (planTransfers p)) :
    Sent s (s.afterPlan p) (planEvents p) :=
  ⟨State.afterPlan_trace p s, noFailure_planEvents p, by rwa [transportWrites_planEvents],
    by rw [transportWrites_planEvents, State.afterPlan_txCount], State.afterPlan_env p s, State.afterPlan_result p s⟩

theorem perform_delivered (p : List Action) (s : State) : Delivered s (perform p s) := by
  rcases perform_cases p s with ⟨hr, h⟩ | ⟨q, bs, r, n, -, hq, hfail, h⟩ <;> rw [h]
  · exact ⟨_, afterPlan_sent hr⟩
  · have hsent := afterPlan_sent hq
    refine ⟨planEvents q, bs, ?_, hsent.ok, ⟨hsent.replies, n, ?_⟩, ?_⟩
    · rw [State.trace, State.txFail_log, List.reverse_cons]
      exact congrArg (· ++ _) hsent.trace
    · rwa [transportWrites_planEvents]
    · rw [State.txFail_txCount, hsent.txCount]

theorem delivered_animation : AnimationLaw Delivered where
  toRuleLaw := delivered_ruleLaw
  char _ _ _ _ _ s := perform_delivered _ s
  draw l s _ := ⟨[.draw l (s.nextDraw l)], .of_noTransfer (by simp [State.trace]) (by simp [noFailure]) rfl rfl rfl rfl⟩
  setCol _ _ _ := ⟨[], .nothing rfl rfl rfl rfl⟩

theorem doInit_delivered (s : State) : Delivered s (doInit s) := by
  have hstate : ∀ (u : State) (l : Lifecycle), Delivered u (.ok { u with state := l }) :=
    fun u l => ⟨[], .nothing rfl rfl rfl rfl⟩
  by_cases hs : s.state = .uninit
  · rw [doInit_uninit hs]
    exact delivered_ruleLaw.trans (hstate s .initializing)
      (delivered_ruleLaw.andThen (perform_delivered _ _) fun t => hstate t .ready)
  · rw [doInit_other hs]
    exact ⟨[], .nothing rfl rfl rfl rfl⟩

/-! ## The end of an instruction -/

/-- The two ends of an instruction (R90, R91): every transfer answered `OK` and no transport error raised, or the first
one answered `FAIL` and the action of the error. -/
def EndsDelivered (s t : State) : Prop :=
  (∃ evs, t.trace = s.trace ++ evs ∧ noFailure evs ∧ s.repliesOk (transportWrites evs) ∧
    t.txCount = s.txCount + transportWrites evs ∧ (t.result = .errTransport → t.result = s.result)) ∨
  (∃ evs bs, t.trace = s.trace ++ evs ++ [.tx bs .fail, .line (.cs .deselected)] ∧ noFailure evs ∧
    s.failsAfter (transportWrites evs) ∧ t.txCount = s.txCount + transportWrites evs + 1 ∧
    t.state = .failed ∧ t.result = .errTransport ∧ t.lines.cs = .deselected)

theorem Delivered.settle {s : State} {r : Run} (h : Delivered s r) : EndsDelivered s (settle r) := by
  cases r with
  | ok t =>
    obtain ⟨evs, hsent⟩ := h
    exact .inl ⟨evs, hsent.trace, hsent.ok, hsent.replies, hsent.txCount, fun _ => hsent.result⟩
  | raised e t =>
    cases e with
    | transportFail =>
      obtain ⟨evs, bs, hbroken⟩ := h
      refine .inr ⟨evs, bs, ?_, hbroken.ok, hbroken.fails, hbroken.txCount, rfl, rfl, rfl⟩
      have htrace : (errorAction .transportFail t).trace = t.trace ++ [.line (.cs .deselected)] := by
        simp [errorAction, State.trace]
      simp [htrace, hbroken.trace]
    | stateError | illegalOpcode | rangeError =>
      obtain ⟨evs, hsent⟩ := h
      exact .inl ⟨evs, hsent.trace, hsent.ok, hsent.replies, hsent.txCount, nofun⟩

/-- A host command begins with `RESULT <- OK` (R48), so it ends with `ERR_TRANSPORT` only if it raises it. -/
theorem hostCommand_endsDelivered {len : Nat} {body : State → Run} (hb : ∀ u, Delivered u (body u)) (s : State) :
    EndsDelivered s (hostCommand len body s) := by
  rcases (hb { s with result := .ok }).settle with ⟨evs, htrace, hok, hreplies, hcount, hresult⟩ | hfail
  · exact .inl ⟨evs, htrace, hok, hreplies, hcount, fun herr => nomatch herr.symm.trans (hresult herr)⟩
  · exact .inr hfail

/-- Settles O15: a rule is put together from plans, draws and writes of the block's own state, and of these only a plan
makes transfers, which it ends at the first failure. -/
theorem firstFailedTransferEndsTheCommand : Obligations.FirstFailedTransferEndsTheCommand := by
  intro i s t h
  obtain ⟨f, hf, rfl⟩ := meaning_of_exec h
  have hreject : ∀ u, ∃ evs, Sent u u evs := fun u => ⟨[], .nothing rfl rfl rfl rfl⟩
  cases hf with
  | init => exact hostCommand_endsDelivered doInit_delivered s
  | colinit n =>
    exact hostCommand_endsDelivered
      (fun u => delivered_animation.doColinit (hreject u) fun _ => ⟨[], .nothing rfl rfl rfl rfl⟩) s
  | tick => exact hostCommand_endsDelivered (fun u => RuleLaw.needReady (hreject u) (delivered_animation.doTick u)) s
  | reserved op => exact Delivered.settle (r := .raised .illegalOpcode s) (hreject s)
  | drawing _ => exact hostCommand_endsDelivered (fun u => RuleLaw.needReady (hreject u) (perform_delivered _ u)) s
  | controller _ => exact (perform_delivered _ s).settle

/-! ## In `FAILED` (R91) -/

/-- What reaches the panel: transfers, line changes, and through them the controller. -/
structure PanelUntouched (s t : State) : Prop where
  txCount : t.txCount = s.txCount
  lines   : t.lines = s.lines
  panel   : t.panel = s.panel

/-- Draws and columns are all `COLINIT` touches (R79). -/
theorem settle_doColinit_panelUntouched (n : Byte) (s : State) : PanelUntouched s (settle (doColinit n s)) := by
  by_cases hn : n.toNat ≤ 21
  · rw [doColinit_inRange hn]
    have hcols : PanelUntouched s (settle (forEach initColumn (firstCols n) s)) :=
      settle_forEach (P := PanelUntouched s) (body := initColumn) (fun _ _ u hu => ⟨hu.txCount, hu.lines, hu.panel⟩)
        ⟨rfl, rfl, rfl⟩
    exact settle_andThen (P := PanelUntouched s) hcols fun _ hu => ⟨hu.txCount, hu.lines, hu.panel⟩
  · rw [doColinit_outOfRange (Nat.lt_of_not_le hn)]
    exact ⟨rfl, rfl, rfl⟩

theorem exec_failed_panelUntouched {i : Instr} {s t : State} (hs : s.state = .failed) (hhost : i.isHostCommand = true)
    (h : exec i s = .next t) : PanelUntouched s t := by
  have hready : s.state ≠ .ready := by simp [hs]
  obtain ⟨f, hf, rfl⟩ := meaning_of_exec h
  cases hf with
  | init =>
    rw [hostCommand_of_raised (doInit_other (s := { s with result := .ok }) (by simp [hs]))]
    exact ⟨rfl, rfl, rfl⟩
  | colinit n =>
    have hcols := settle_doColinit_panelUntouched n { s with result := .ok }
    exact ⟨hcols.txCount, hcols.lines, hcols.panel⟩
  | tick => rw [rejectedCommand hready]; exact ⟨rfl, rfl, rfl⟩
  | reserved op => exact ⟨rfl, rfl, rfl⟩
  | drawing _ => rw [rejectedCommand hready]; exact ⟨rfl, rfl, rfl⟩
  | controller hplan => rw [hplan.not_host] at hhost; cases hhost

/-- Settles O16: in `FAILED` every host command is rejected but `COLINIT`, which draws, and a reserved opcode, which
stops the block. -/
theorem failedBlockMakesNoTransfer : Obligations.FailedBlockMakesNoTransfer := by
  intro s t hs h
  obtain ⟨-, i, hhost, hexec⟩ := step_hostCommand h
  have hpanel := exec_failed_panelUntouched hs hhost hexec
  exact ⟨hpanel.txCount, hpanel.lines, hpanel.panel, exec_failed hs hexec⟩

end Sys2Proof.Machine
end

section
/-! The command bytes an instruction emits (R57): the transfers made while the data/command line is at command. -/

namespace Sys2Proof.Machine

/-- The data/command line after a trace that begins with it at `dc`. -/
def dcAfter : DcState → List Event → DcState
  | dc, [] => dc
  | _, .line (.dc v) :: rest => dcAfter v rest
  | dc, _ :: rest => dcAfter dc rest

theorem dcAfter_append (dc : DcState) (e f : List Event) : dcAfter dc (e ++ f) = dcAfter (dcAfter dc e) f := by
  induction e generalizing dc with
  | nil => rfl
  | cons a e ih =>
    cases a with
    | line w => cases w <;> exact ih _
    | tx | delay | draw => exact ih _

theorem commandTransfers_append (dc : DcState) (e f : List Event) :
    commandTransfers dc (e ++ f) = commandTransfers dc e ++ commandTransfers (dcAfter dc e) f := by
  induction e generalizing dc with
  | nil => rfl
  | cons a e ih =>
    cases a with
    | line w => cases w <;> exact ih _
    | tx bs a =>
      cases dc with
      | command => exact congrArg (bs :: ·) (ih _)
      | data => exact ih _
    | delay | draw => exact ih _

/-- `t` is reached from `s` by events whose command-state transfers are the bytes of commands of `C`. -/
structure Emitted (C : List PanelCmd) (s t : State) (evs : List Event) : Prop where
  trace    : t.trace = s.trace ++ evs
  dc       : t.lines.dc = dcAfter s.lines.dc evs
  commands : ∀ bs ∈ commandTransfers s.lines.dc evs, bs ∈ C.map fun c => [cmdByte c]

theorem Emitted.trans {C : List PanelCmd} {s t u : State} {e f : List Event} (h : Emitted C s t e)
    (k : Emitted C t u f) : Emitted C s u (e ++ f) where
  trace := by rw [k.trace, h.trace, List.append_assoc]
  dc := by rw [k.dc, h.dc, dcAfter_append]
  commands bs hbs := by
    rw [commandTransfers_append, List.mem_append, ← h.dc] at hbs
    exact hbs.elim (h.commands bs) (k.commands bs)

/-- The rule has emitted no command byte but those of `C`. -/
def EmitsOnly (C : List PanelCmd) (s : State) (r : Run) : Prop := ∃ evs, Emitted C s r.state evs

variable {C : List PanelCmd}

theorem emitsOnly_nothing {s : State} {r : Run} (hlog : r.state.log = s.log) (hlines : r.state.lines = s.lines) :
    EmitsOnly C s r :=
  ⟨[], by simp [State.trace, hlog], by rw [hlines]; rfl, fun _ h => absurd h List.not_mem_nil⟩

theorem emitsOnly_send (C : List PanelCmd) : SendLaw C (EmitsOnly C) where
  done _ := emitsOnly_nothing rfl rfl
  trans := fun ⟨e, he⟩ ⟨f, hf⟩ => ⟨e ++ f, he.trans hf⟩
  cmd c hc s := by
    have hmem : ∀ bs ∈ [[cmdByte c]], bs ∈ C.map fun c => [cmdByte c] :=
      List.forall_mem_singleton.2 (List.mem_map_of_mem hc)
    rcases perform_sendCmd c s with h | ⟨n, -, h⟩ <;> rw [h]
    · exact ⟨[.line (.dc .command), .tx [cmdByte c] .ok], by simp [State.trace], rfl, hmem⟩
    · exact ⟨[.line (.dc .command), .tx [cmdByte c] .fail], by simp [State.trace], rfl, hmem⟩
  data bs s := by
    rcases perform_sendData bs s with h | ⟨n, -, h⟩ <;> rw [h]
    · exact ⟨[.line (.dc .data), .tx bs .ok], by simp [State.trace], rfl, by simp [commandTransfers]⟩
    · exact ⟨[.line (.dc .data), .tx bs .fail], by simp [State.trace], rfl, by simp [commandTransfers]⟩
  delay n s := ⟨[.delay n], by simp [State.trace], rfl, by simp [commandTransfers]⟩

theorem emitsOnly_animation : AnimationLaw (EmitsOnly windowCmds) :=
  (emitsOnly_send windowCmds).animation
    (fun l s _ => ⟨[.draw l (s.nextDraw l)], by simp [State.trace], rfl, by simp [commandTransfers]⟩)
    fun _ _ _ => emitsOnly_nothing rfl rfl

/-- The error's action makes no transfer (R91). -/
theorem EmitsOnly.settle {s : State} {r : Run} (h : EmitsOnly C s r) : EmitsOnly C s (.ok (settle r)) := by
  cases r with
  | ok t => exact h
  | raised e t =>
    refine (emitsOnly_send C).trans (t := t) h ?_
    cases e with
    | transportFail =>
      exact ⟨[.line (.cs .deselected)], by simp [errorAction, State.trace], rfl, by simp [commandTransfers]⟩
    | stateError | illegalOpcode | rangeError => exact emitsOnly_nothing rfl rfl

theorem hostCommand_emitsOnly {len : Nat} {body : State → Run} {s : State}
    (hb : EmitsOnly C { s with result := .ok } (body { s with result := .ok })) :
    EmitsOnly C s (.ok (hostCommand len body s)) := by
  obtain ⟨evs, hevs⟩ := hb.settle
  exact ⟨evs, hevs.trace, hevs.dc, hevs.commands⟩

/-- R59: a table that is admitted sends the sixteen init commands only. -/
theorem legal_initCmds {cfg : Config} (h : cfg.legal = true) : ∀ st ∈ cfg.initTable, st.cmd ∈ Config.initCmds := by
  simp only [Config.legal, Config.initTableLegal, Bool.and_eq_true, List.all_eq_true, decide_eq_true_eq] at h
  obtain ⟨-, ⟨-, hcmds⟩, -⟩ := h
  exact hcmds

/-- The reset pulse drives RST and CS and waits (R60). -/
theorem doInit_emitsOnly {s : State} (hcmds : ∀ st ∈ s.cfg.initTable, st.cmd ∈ C) : EmitsOnly C s (doInit s) := by
  by_cases hs : s.state = .uninit
  · have hsend := emitsOnly_send C
    have hpulse : EmitsOnly C s (.ok ({ s with state := .initializing }.afterPlan resetPulsePlan)) :=
      ⟨planEvents resetPulsePlan, State.afterPlan_trace resetPulsePlan _, rfl, by
        simp [resetPulsePlan, planEvents, commandTransfers]⟩
    have hsteps : Sends C (s.cfg.initTable.flatMap initStepPlan) := .flatMap fun st hst => .initStep (hcmds st hst)
    rw [doInit_uninit hs, perform_initPlan]
    exact hsend.trans hpulse (hsend.andThen (hsend.perform hsteps _) fun _ => emitsOnly_nothing rfl rfl)
  · rw [doInit_other hs]
    exact emitsOnly_nothing rfl rfl

/-- Every host command but `INIT` emits no command but those of `DoSetWindow`. -/
theorem exec_emitsOnly_windowCmds {i : Instr} {s t : State} (hhost : i.isHostCommand = true) (hi : i ≠ .init)
    (h : exec i s = .next t) : EmitsOnly windowCmds s (.ok t) := by
  obtain ⟨f, hf, rfl⟩ := meaning_of_exec h
  have hreject : ∀ e u, EmitsOnly windowCmds u (.raised e u) := fun _ _ => emitsOnly_nothing rfl rfl
  cases hf with
  | init => exact absurd rfl hi
  | colinit n =>
    exact hostCommand_emitsOnly (emitsOnly_animation.doColinit (hreject _ _) fun _ => emitsOnly_nothing rfl rfl)
  | tick => exact hostCommand_emitsOnly (RuleLaw.needReady (hreject _ _) (emitsOnly_animation.doTick _))
  | reserved op => exact emitsOnly_nothing rfl rfl
  | drawing hplan =>
    exact hostCommand_emitsOnly
      (RuleLaw.needReady (hreject _ _) ((emitsOnly_send windowCmds).perform (.drawing hplan _) _))
  | controller hplan => rw [hplan.not_host] at hhost; cases hhost

theorem exec_init_emitsOnly {s t : State} (hcfg : s.cfg.legal = true) (h : exec .init s = .next t) :
    EmitsOnly Config.initCmds s (.ok t) := by
  cases h
  exact hostCommand_emitsOnly (doInit_emitsOnly (s := { s with result := .ok }) (legal_initCmds hcfg))

/-- Settles O44: a command byte is sent by `SendCmd` only, and the commands it is given are those of the init table in
`INIT` and those of `DoSetWindow` in every other command. -/
theorem onlyTheListedCommandBytesAreEmitted : Obligations.OnlyTheListedCommandBytesAreEmitted := by
  intro i s t hhost hcfg h
  by_cases hi : i = .init
  · subst hi
    obtain ⟨evs, hevs⟩ := exec_init_emitsOnly hcfg h
    exact ⟨evs, hevs.trace, fun bs hbs => ⟨fun _ => hevs.commands bs hbs, fun hne => absurd rfl hne⟩⟩
  · obtain ⟨evs, hevs⟩ := exec_emitsOnly_windowCmds hhost hi h
    exact ⟨evs, hevs.trace, fun bs hbs => ⟨fun he => absurd he hi, fun _ => hevs.commands bs hbs⟩⟩

end Sys2Proof.Machine
end

section
/-! The draws of an instruction (R104): with an admitted configuration every list asked for has an element. -/

namespace Sys2Proof.Machine

theorem draw_not_mem_planEvents (p : List Action) (l : List Nat) (v : Nat) : Event.draw l v ∉ planEvents p := by
  induction p with
  | nil => exact List.not_mem_nil
  | cons a p ih => cases a <;> simp [planEvents, ih]

/-- R10: `ALPHABET` is not empty; the other lists are ranges. -/
theorem askedLists_ne_nil {cfg : Config} (h : cfg.legal = true) {l : List Nat} (hl : l ∈ askedLists cfg) : l ≠ [] := by
  have halphabet : alphabetChoices cfg ≠ [] := by
    simp only [Config.legal, Bool.and_eq_true, decide_eq_true_eq] at h
    obtain ⟨⟨⟨⟨-, hne⟩, -⟩, -⟩, -⟩ := h
    simpa [alphabetChoices] using hne
  simp only [askedLists, List.mem_cons, List.not_mem_nil, or_false] at hl
  rcases hl with rfl | rfl | rfl | rfl | rfl
  · exact halphabet
  all_goals exact rangeList_ne_nil (by decide)

/-- The events `t` has after `s` contain no draw but of an element of the list asked for. -/
structure DrawsFair (s t : State) : Prop where
  cfg   : t.cfg = s.cfg
  draws : ∃ evs, t.trace = s.trace ++ evs ∧ ∀ l v, .draw l v ∈ evs → v ∈ l

/-- The rule has drawn from its lists, if the configuration is admitted. -/
def RuleDrawsFair (s : State) (r : Run) : Prop := s.cfg.legal = true → DrawsFair s r.state

theorem DrawsFair.trans {s t u : State} (h : DrawsFair s t) (k : DrawsFair t u) : DrawsFair s u := by
  obtain ⟨hcfg, e, he, hefair⟩ := h
  obtain ⟨kcfg, f, hf, hffair⟩ := k
  refine ⟨kcfg.trans hcfg, e ++ f, by rw [hf, he, List.append_assoc], fun l v hv => ?_⟩
  exact (List.mem_append.1 hv).elim (hefair l v) (hffair l v)

/-- No event, or one that is no draw. -/
theorem DrawsFair.of_noDraw {s t : State} {evs : List Event} (hcfg : t.cfg = s.cfg) (htrace : t.trace = s.trace ++ evs)
    (hnone : ∀ l v, .draw l v ∉ evs) : DrawsFair s t := ⟨hcfg, evs, htrace, fun l v hv => absurd hv (hnone l v)⟩

theorem DrawsFair.of_log {s t : State} (hcfg : t.cfg = s.cfg) (hlog : t.log = s.log) : DrawsFair s t :=
  .of_noDraw (evs := []) hcfg (by simp [State.trace, hlog]) fun _ _ => List.not_mem_nil

theorem perform_drawsFair (p : List Action) (s : State) : DrawsFair s (perform p s).state := by
  rcases perform_cases p s with ⟨-, h⟩ | ⟨q, bs, r, n, -, -, -, h⟩ <;> rw [h]
  · exact .of_noDraw (State.afterPlan_cfg p s) (State.afterPlan_trace p s) (draw_not_mem_planEvents p)
  · have hplan : DrawsFair s (s.afterPlan q) :=
      .of_noDraw (State.afterPlan_cfg q s) (State.afterPlan_trace q s) (draw_not_mem_planEvents q)
    exact hplan.trans (.of_noDraw (evs := [.tx bs .fail]) rfl (by simp [State.trace]) (by simp))

theorem drawsFair_animation : AnimationLaw RuleDrawsFair where
  done _ _ := .of_log rfl rfl
  trans {s t r} h k hcfg := (h hcfg).trans (k (by rw [show t.cfg = s.cfg from (h hcfg).cfg]; exact hcfg))
  char _ _ _ _ _ s _ := perform_drawsFair _ s
  draw l s hl hcfg := by
    refine ⟨rfl, [.draw l (s.nextDraw l)], by simp [State.trace], fun l' v hv => ?_⟩
    cases List.mem_singleton.1 hv
    exact pick_mem (askedLists_ne_nil hcfg hl) _
  setCol _ _ _ _ := .of_log rfl rfl

theorem errorAction_drawsFair (e : Error) (s : State) : DrawsFair s (errorAction e s) := by
  cases e with
  | transportFail =>
    exact .of_noDraw (evs := [.line (.cs .deselected)]) rfl (by simp [errorAction, State.trace]) (by simp)
  | stateError | illegalOpcode | rangeError => exact .of_log rfl rfl

theorem settle_drawsFair {s : State} {r : Run} (h : DrawsFair s r.state) : DrawsFair s (settle r) := by
  cases r with
  | ok t => exact h
  | raised e t => exact h.trans (errorAction_drawsFair e t)

theorem hostCommand_drawsFair {len : Nat} {body : State → Run} (hb : ∀ u, RuleDrawsFair u (body u)) {s : State}
    (hcfg : s.cfg.legal = true) : DrawsFair s (hostCommand len body s) := by
  have hrule := settle_drawsFair (hb { s with result := .ok } hcfg)
  exact ⟨hrule.cfg, hrule.draws⟩

theorem doInit_drawsFair (s : State) : RuleDrawsFair s (doInit s) := by
  have hstate : ∀ (u : State) (l : Lifecycle), RuleDrawsFair u (.ok { u with state := l }) :=
    fun u l _ => .of_log rfl rfl
  by_cases hs : s.state = .uninit
  · rw [doInit_uninit hs]
    exact drawsFair_animation.trans (hstate s .initializing)
      (drawsFair_animation.andThen (fun _ => perform_drawsFair _ _) fun t => hstate t .ready)
  · rw [doInit_other hs]
    exact fun _ => .of_log rfl rfl

theorem exec_drawsFair {i : Instr} {s t : State} (hcfg : s.cfg.legal = true) (h : exec i s = .next t) :
    DrawsFair s t := by
  obtain ⟨f, hf, rfl⟩ := meaning_of_exec h
  have hreject : ∀ e u, RuleDrawsFair u (.raised e u) := fun _ _ _ => .of_log rfl rfl
  cases hf with
  | init => exact hostCommand_drawsFair doInit_drawsFair hcfg
  | colinit n =>
    exact hostCommand_drawsFair (fun u => drawsFair_animation.doColinit (hreject _ u) fun _ _ => .of_log rfl rfl) hcfg
  | tick => exact hostCommand_drawsFair (fun u => RuleLaw.needReady (hreject _ u) (drawsFair_animation.doTick u)) hcfg
  | reserved op => exact errorAction_drawsFair .illegalOpcode s
  | drawing _ =>
    exact hostCommand_drawsFair (fun u => RuleLaw.needReady (hreject _ u) fun _ => perform_drawsFair _ u) hcfg
  | controller _ => exact settle_drawsFair (perform_drawsFair _ s)

/-- Settles O45: plans make no draw, and the lists the animation asks for are not empty, so a draw from one is in it. -/
theorem everyDrawIsFromItsList : Obligations.EveryDrawIsFromItsList :=
  fun _ _ _ hcfg h => (exec_drawsFair hcfg h).draws

end Sys2Proof.Machine
end

section
/-! Two runs of an instruction from related states (R27, R47): a relation that every primitive keeps, and that leaves
alone all a rule reads, holds of the two ends. -/

namespace Sys2Proof.Machine

/-- Related states agree in all a rule reads, and every primitive keeps them related. -/
structure Simulation (R : State → State → Prop) : Prop where
  setLine     : ∀ {s t} w, R s t → R (s.setLine w) (t.setLine w)
  emit        : ∀ {s t} e, R s t → R (s.emit e) (t.emit e)
  reply       : ∀ {s t}, R s t → t.replyAt t.txCount = s.replyAt s.txCount
  txOk        : ∀ {s t} bs, R s t → R (s.txOk bs) (t.txOk bs)
  txFail      : ∀ {s t} bs n, R s t → R (s.txFail bs n) (t.txFail bs n)
  nextDraw    : ∀ {s t} l, R s t → t.nextDraw l = s.nextDraw l
  afterDraw   : ∀ {s t} l, R s t → R (s.afterDraw l) (t.afterDraw l)
  col         : ∀ {s t} c, R s t → t.col c = s.col c
  setCol      : ∀ {s t} c k, R s t → R (s.setCol c k) (t.setCol c k)
  cfg         : ∀ {s t}, R s t → t.cfg = s.cfg
  state       : ∀ {s t}, R s t → t.state = s.state
  ncols       : ∀ {s t}, R s t → t.ncols = s.ncols
  setState    : ∀ {s t} l, R s t → R { s with state := l } { t with state := l }
  setResult   : ∀ {s t} r, R s t → R { s with result := r } { t with result := r }
  setNcols    : ∀ {s t} n, R s t → R { s with ncols := n } { t with ncols := n }
  moveCp      : ∀ {s t} n, R s t → R { s with cp := s.cp + n } { t with cp := t.cp + n }
  errorAction : ∀ {s t} e, R s t → R (errorAction e s) (errorAction e t)

/-- The two rules have come to the same point: both go on, or both have raised the same error. -/
inductive RunsRelated (R : State → State → Prop) : Run → Run → Prop where
  | ok {s t : State} (h : R s t) : RunsRelated R (.ok s) (.ok t)
  | raised (e : Error) {s t : State} (h : R s t) : RunsRelated R (.raised e s) (.raised e t)

/-- The rule does the same from related states. -/
def Simulated (R : State → State → Prop) (body : State → Run) : Prop :=
  ∀ {s t}, R s t → RunsRelated R (body s) (body t)

variable {R : State → State → Prop}

theorem RunsRelated.andThen {r q : Run} {f g : State → Run} (h : RunsRelated R r q)
    (hf : ∀ {s t}, R s t → RunsRelated R (f s) (g t)) : RunsRelated R (r.andThen f) (q.andThen g) := by
  cases h with
  | ok h => exact hf h
  | raised e h => exact .raised e h

theorem Simulated.forEach {α : Type} {body : α → State → Run} (h : ∀ a, Simulated R (body a)) (l : List α) :
    Simulated R (forEach body l) := by
  induction l with
  | nil => exact .ok
  | cons a l ih => exact fun hst => (h a hst).andThen ih

namespace Simulation

variable (hR : Simulation R)
include hR

theorem perform (p : List Action) : Simulated R (perform p) := by
  intro s t h
  induction p generalizing s t with
  | nil => exact .ok h
  | cons a p ih =>
    cases a with
    | setLine w => exact ih (hR.setLine w h)
    | delay n => exact ih (hR.emit _ h)
    | tx bs =>
      simp only [Machine.perform, hR.reply h]
      cases s.replyAt s.txCount with
      | ok => exact ih (hR.txOk bs h)
      | fail n => exact .raised _ (hR.txFail bs n h)

theorem initColumn (c : Fin 21) : Simulated R (initColumn c) := by
  intro s t h
  have h1 := hR.afterDraw headChoices h
  have h2 := hR.afterDraw tailChoices h1
  have h3 := hR.afterDraw speedChoices h2
  have h4 := hR.afterDraw fcChoices h3
  simp only [Machine.initColumn, hR.nextDraw _ h, hR.nextDraw _ h1, hR.nextDraw _ h2, hR.nextDraw _ h3]
  exact .ok (hR.setCol c _ h4)

theorem doColinit (n : Byte) : Simulated R (doColinit n) := by
  intro s t h
  by_cases hn : n.toNat ≤ 21
  · rw [doColinit_inRange hn, doColinit_inRange hn]
    exact (Simulated.forEach hR.initColumn _ h).andThen fun h => .ok (hR.setNcols n h)
  · have hn' := Nat.lt_of_not_le hn
    rw [doColinit_outOfRange hn', doColinit_outOfRange hn']
    exact .raised _ h

theorem paintCell (c : Fin 21) (i : Nat) : Simulated R (paintCell c i) := by
  intro s t h
  simp only [Machine.paintCell, hR.col c h, hR.cfg h, hR.nextDraw _ h]
  split
  · exact hR.perform _ (hR.afterDraw _ h)
  · exact .ok h

theorem paintTail (c : Fin 21) (i : Nat) : Simulated R (paintTail c i) := by
  induction i with
  | zero => exact hR.paintCell c 0
  | succ i ih => exact fun h => (hR.paintCell c (i + 1) h).andThen ih

theorem respawn (c : Fin 21) {s t : State} (h : R s t) : R (respawn c s) (respawn c t) := by
  have h1 := hR.afterDraw tailChoices h
  simp only [Machine.respawn, hR.col c h, hR.nextDraw _ h, hR.nextDraw _ h1]
  exact hR.setCol c _ (hR.afterDraw _ h1)

theorem moveHead (c : Fin 21) {s t : State} (h : R s t) : R (moveHead c s) (moveHead c t) := by
  simp only [Machine.moveHead, hR.col c h, State.col_setCol_same]
  split
  · exact hR.respawn c (hR.setCol c _ h)
  · exact hR.setCol c _ h

theorem tickColumn (c : Fin 21) : Simulated R (tickColumn c) := by
  intro s t h
  simp only [Machine.tickColumn, advance, hR.col c h, State.col_setCol_same]
  split
  · exact (hR.paintTail c _ (hR.setCol c _ h)).andThen fun h => .ok (hR.moveHead c h)
  · exact .ok (hR.setCol c _ h)

theorem doTick : Simulated R doTick := by
  intro s t h
  simp only [Machine.doTick, hR.ncols h]
  exact Simulated.forEach hR.tickColumn _ h

theorem doInit : Simulated R doInit := by
  intro s t h
  by_cases hs : s.state = .uninit
  · rw [doInit_uninit hs, doInit_uninit ((hR.state h).trans hs), congrArg Config.initTable (hR.cfg h)]
    exact (hR.perform _ (hR.setState _ h)).andThen fun h => .ok (hR.setState _ h)
  · rw [doInit_other hs, doInit_other (hR.state h ▸ hs)]
    exact .raised _ h

theorem needReady {body : State → Run} (hb : Simulated R body) : Simulated R (needReady body) := by
  intro s t h
  by_cases hs : s.state = .ready
  · rw [needReady_ready hs, needReady_ready ((hR.state h).trans hs)]
    exact hb h
  · rw [needReady_other hs, needReady_other (hR.state h ▸ hs)]
    exact .raised _ h

theorem settle {r q : Run} (h : RunsRelated R r q) : R (settle r) (settle q) := by
  cases h with
  | ok h => exact h
  | raised e h => exact hR.errorAction e h

theorem hostCommand {len : Nat} {body : State → Run} (hb : Simulated R body) {s t : State} (h : R s t) :
    R (hostCommand len body s) (hostCommand len body t) :=
  hR.moveCp len (hR.settle (hb (hR.setResult .ok h)))

/-- Performing a plan that depends on the configuration. -/
theorem performCfg (plan : Config → List Action) : Simulated R fun s => Machine.perform (plan s.cfg) s := by
  intro s t h
  simp only [hR.cfg h]
  exact hR.perform _ h

/-- An instruction run from related states ends in related states. -/
theorem exec {i : Instr} {s s' t : State} (h : R s s') (hexec : exec i s = .next t) :
    ∃ t', Machine.exec i s' = .next t' ∧ R t t' := by
  obtain ⟨f, hf, hall⟩ := exec_meaning i
  cases (hall s).symm.trans hexec
  refine ⟨f s', hall s', ?_⟩
  cases hf with
  | init => exact hR.hostCommand hR.doInit h
  | colinit n => exact hR.hostCommand (hR.doColinit n) h
  | tick => exact hR.hostCommand (hR.needReady hR.doTick) h
  | reserved op => exact hR.errorAction _ h
  | drawing _ => exact hR.hostCommand (hR.needReady (hR.performCfg _)) h
  | controller _ => exact hR.settle (hR.performCfg _ h)

end Simulation

/-! ## The two relations -/

/-- The same state but for the controller. -/
def SameBlock (s t : State) : Prop := ∃ p, t = { s with panel := p }

theorem sameBlock_simulation : Simulation SameBlock where
  setLine := by rintro s _ w ⟨p, rfl⟩; exact ⟨_, rfl⟩
  emit := by rintro s _ e ⟨p, rfl⟩; exact ⟨_, rfl⟩
  reply := by rintro s _ ⟨p, rfl⟩; rfl
  txOk := by rintro s _ bs ⟨p, rfl⟩; exact ⟨_, rfl⟩
  txFail := by rintro s _ bs n ⟨p, rfl⟩; exact ⟨_, rfl⟩
  nextDraw := by rintro s _ l ⟨p, rfl⟩; rfl
  afterDraw := by rintro s _ l ⟨p, rfl⟩; exact ⟨_, rfl⟩
  col := by rintro s _ c ⟨p, rfl⟩; rfl
  setCol := by rintro s _ c k ⟨p, rfl⟩; exact ⟨_, rfl⟩
  cfg := by rintro s _ ⟨p, rfl⟩; rfl
  state := by rintro s _ ⟨p, rfl⟩; rfl
  ncols := by rintro s _ ⟨p, rfl⟩; rfl
  setState := by rintro s _ l ⟨p, rfl⟩; exact ⟨_, rfl⟩
  setResult := by rintro s _ r ⟨p, rfl⟩; exact ⟨_, rfl⟩
  setNcols := by rintro s _ n ⟨p, rfl⟩; exact ⟨_, rfl⟩
  moveCp := by rintro s _ n ⟨p, rfl⟩; exact ⟨_, rfl⟩
  errorAction := by rintro s _ e ⟨p, rfl⟩; cases e <;> exact ⟨_, rfl⟩

/-- R47: the same state with bytes appended to the stream. -/
theorem supply_simulation (bs : List Byte) : Simulation fun s t => t = s.supply bs where
  setLine := by rintro s _ w rfl; rfl
  emit := by rintro s _ e rfl; rfl
  reply := by rintro s _ rfl; rfl
  txOk := by rintro s _ bs rfl; rfl
  txFail := by rintro s _ bs n rfl; rfl
  nextDraw := by rintro s _ l rfl; rfl
  afterDraw := by rintro s _ l rfl; rfl
  col := by rintro s _ c rfl; rfl
  setCol := by rintro s _ c k rfl; rfl
  cfg := by rintro s _ rfl; rfl
  state := by rintro s _ rfl; rfl
  ncols := by rintro s _ rfl; rfl
  setState := by rintro s _ l rfl; rfl
  setResult := by rintro s _ r rfl; rfl
  setNcols := by rintro s _ n rfl; rfl
  moveCp := by rintro s _ n rfl; rfl
  errorAction := by rintro s _ e rfl; cases e <;> rfl

/-- Settles O47: no rule reads the controller, so states that differ in it alone stay so. -/
theorem theControllerIsNeverReadBack : Obligations.TheControllerIsNeverReadBack := by
  intro i s t p h
  obtain ⟨_, hexec, q, rfl⟩ := sameBlock_simulation.exec ⟨p, rfl⟩ h
  exact ⟨q, hexec⟩

/-- Settles O48: no rule reads the stream, and the decoder reads the same command with more bytes after it. -/
theorem hostAppendsDoNotDisturbAStep : Obligations.HostAppendsDoNotDisturbAStep := by
  intro s t bs h
  obtain ⟨hs, i, rest, hdec, hexec⟩ := step_eq_next h
  obtain ⟨_, hexec', rfl⟩ := (supply_simulation bs).exec rfl hexec
  have hdec' : decode ((s.stream ++ bs).drop s.cp) = .ok (i, rest ++ bs) := by
    rw [List.drop_append_of_le_length ?_]
    · exact decode_append hdec bs
    · by_contra hlt
      rw [List.drop_eq_nil_of_le (by omega)] at hdec
      cases hdec
  exact (step_of_decode (s := s.supply bs) hs hdec').trans hexec'

end Sys2Proof.Machine
end

section
/-! What the controller makes of the block's plans (R40, R41, R64, R66): a command, its data, a window and a pixel. -/

namespace Sys2Proof.Machine

namespace Panel

/-- R57: no other command has the byte of `RAMWR` or `SWRESET`. -/
theorem eq_ramwr_of_cmdByte {c : PanelCmd} : cmdByte c = cmdByte .ramwr → c = .ramwr := by cases c <;> decide

theorem eq_swreset_of_cmdByte {c : PanelCmd} : cmdByte c = cmdByte .swreset → c = .swreset := by cases c <;> decide

/-- R40: a command byte other than `RAMWR` and `SWRESET` waits for its data. -/
theorem startCommand_param {c : PanelCmd} (hramwr : c ≠ .ramwr) (hswreset : c ≠ .swreset) (p : Panel) :
    startCommand p (cmdByte c) = { p with regs := { p.regs with mode := .param (cmdByte c) [] } } := by
  rw [startCommand, if_neg (mt eq_ramwr_of_cmdByte hramwr), if_neg (mt eq_swreset_of_cmdByte hswreset)]

/-- R40: the four parameter bytes of `CASET` set the window's columns. -/
theorem receiveData_caset (cfg : Config) (first last : Half) {p : Panel} (h : p.regs.mode = .param (cmdByte .caset) []) :
    receiveData cfg (bytesOf first ++ bytesOf last) p =
      { p with regs := { p.regs with wx0 := first, wx1 := last, mode := .idle } } := by
  simp [bytesOf, receiveData, h, setRange]

/-- R40: the four parameter bytes of `RASET` set the window's rows. -/
theorem receiveData_raset (cfg : Config) (first last : Half) {p : Panel} (h : p.regs.mode = .param (cmdByte .raset) []) :
    receiveData cfg (bytesOf first ++ bytesOf last) p =
      { p with regs := { p.regs with wy0 := first, wy1 := last, mode := .idle } } := by
  have hne : cmdByte .raset ≠ cmdByte .caset := by decide
  simp [bytesOf, receiveData, h, setRange, hne]

/-- R40, R41: the two bytes of a pixel sent to a primed controller. -/
theorem receiveData_pixel (cfg : Config) (c : Half) {p : Panel} (h : p.regs.mode = .memwrite none) :
    receiveData cfg (bytesOf c) p = writePixel cfg p c := by
  obtain ⟨⟨wx0, wx1, wy0, wy1, px, py, mode⟩, gram, free⟩ := p
  cases h
  simp [bytesOf, receiveData]

/-- R114: data in a mode whose data the model does not follow. -/
theorem receiveData_unprimed (cfg : Config) {bs : List Byte} (hbs : bs ≠ []) {p : Panel}
    (h : p.regs.mode = .idle ∨
      ∃ b got, p.regs.mode = .param b got ∧ b ≠ cmdByte .caset ∧ b ≠ cmdByte .raset) :
    receiveData cfg bs p = scramble p := by
  cases bs with
  | nil => exact absurd rfl hbs
  | cons d rest =>
    rcases h with h | ⟨b, got, h, hc, hr⟩
    · simp [receiveData, h]
    · simp [receiveData, h, hc, hr]

@[simp] theorem scramble_gram (p : Panel) : (scramble p).gram = [] := rfl

@[simp] theorem advancePointer_gram (cfg : Config) (p : Panel) : (advancePointer cfg p).gram = p.gram := by
  unfold advancePointer
  dsimp only
  split
  · rfl
  · split
    · rfl
    · split <;> rfl

/-- R41: a pixel within the memory, through a window that meets R65. -/
theorem writePixel_gram {cfg : Config} {p : Panel} (c : Half) (hx : p.regs.px.toNat < cfg.gramW)
    (hy : p.regs.py.toNat < cfg.gramH) (hwin : windowLegal p.regs = true) :
    (writePixel cfg p c).gram = Gram.write p.gram (gramAddr cfg p.regs.px.toNat p.regs.py.toNat) c := by
  rw [writePixel, advancePointer_gram, if_pos ⟨hx, hy, hwin⟩]

/-- R41: the pointer by the default `WRAP`. -/
theorem writePixel_regs {cfg : Config} (hwrap : cfg.wrap = .toWindowStart) (p : Panel) (c : Half) :
    (writePixel cfg p c).regs =
      { p.regs with
        px := if (p.regs.px + 1).toNat ≤ p.regs.wx1.toNat then p.regs.px + 1 else p.regs.wx0
        py := if (p.regs.px + 1).toNat ≤ p.regs.wx1.toNat then p.regs.py
              else if (p.regs.py + 1).toNat ≤ p.regs.wy1.toNat then p.regs.py + 1
              else p.regs.wy0 } := by
  simp only [writePixel, advancePointer, hwrap]
  split
  · rfl
  · split <;> rfl

/-- R65, spelled out. -/
theorem windowLegal_iff {r : PanelRegs} :
    windowLegal r = true ↔ 2 ≤ r.wx0.toNat ∧ r.wx0.toNat ≤ r.wx1.toNat ∧ r.wx1.toNat < 130 ∧
      1 ≤ r.wy0.toNat ∧ r.wy0.toNat ≤ r.wy1.toNat ∧ r.wy1.toNat < 161 := by
  simp [windowLegal, and_assoc]

end Panel

/-! ## The plans -/

theorem afterPlan_sendCmd_panel (c : PanelCmd) (s : State) :
    (s.afterPlan (sendCmd c)).panel = s.panel.startCommand (cmdByte c) := rfl

theorem afterPlan_sendData_panel (bs : List Byte) (s : State) :
    (s.afterPlan (sendData bs)).panel = s.panel.receiveData s.cfg bs := rfl

@[simp] theorem afterPlan_caset_panel (first last : Half) (s : State) :
    (s.afterPlan (casetPlan first last)).panel =
      { s.panel with regs := { s.panel.regs with wx0 := first, wx1 := last, mode := .idle } } := by
  rw [casetPlan, State.afterPlan_append, afterPlan_sendData_panel, afterPlan_sendCmd_panel,
    Panel.startCommand_param (by decide) (by decide), Panel.receiveData_caset _ _ _ rfl]

@[simp] theorem afterPlan_raset_panel (first last : Half) (s : State) :
    (s.afterPlan (rasetPlan first last)).panel =
      { s.panel with regs := { s.panel.regs with wy0 := first, wy1 := last, mode := .idle } } := by
  rw [rasetPlan, State.afterPlan_append, afterPlan_sendData_panel, afterPlan_sendCmd_panel,
    Panel.startCommand_param (by decide) (by decide), Panel.receiveData_raset _ _ _ rfl]

@[simp] theorem afterPlan_ramwr_panel (s : State) :
    (s.afterPlan (sendCmd .ramwr)).panel =
      { s.panel with
        regs := { s.panel.regs with px := s.panel.regs.wx0, py := s.panel.regs.wy0, mode := .memwrite none }
        gram := if Panel.windowLegal s.panel.regs then s.panel.gram else [] } := rfl

/-- The controller's registers after `DoSetWindow` (R40, R43): the offset operands, the pointer at the window's start. -/
def windowRegs (x0 y0 x1 y1 : Half) : PanelRegs where
  wx0 := x0 + 2
  wx1 := x1 + 2
  wy0 := y0 + 1
  wy1 := y1 + 1
  px := x0 + 2
  py := y0 + 1
  mode := .memwrite none

/-- R40, R64: whatever the controller was doing, a window sent to it is the window it holds. -/
@[simp] theorem afterPlan_setWindow_panel (x0 y0 x1 y1 : Half) (s : State) :
    (s.afterPlan (setWindowPlan x0 y0 x1 y1)).panel =
      { s.panel with
        regs := windowRegs x0 y0 x1 y1
        gram := if Panel.windowLegal (windowRegs x0 y0 x1 y1) then s.panel.gram else [] } := by
  simp only [setWindowPlan, State.afterPlan_append, afterPlan_ramwr_panel, afterPlan_raset_panel,
    afterPlan_caset_panel]
  rfl

/-- R43, R65: the offset operands are a window of the panel exactly if the operands are one. -/
theorem windowLegal_windowRegs {x0 y0 x1 y1 : Half} :
    Panel.windowLegal (windowRegs x0 y0 x1 y1) = true ↔
      x0.toNat ≤ x1.toNat ∧ x1.toNat < 128 ∧ y0.toNat ≤ y1.toNat ∧ y1.toNat < 160 := by
  rw [Panel.windowLegal_iff]
  simp only [windowRegs]
  bv_omega

/-- R66: one pixel sent to a primed controller. -/
theorem afterPlan_writePixel_panel (c : Half) {s : State} (h : s.panel.regs.mode = .memwrite none) :
    (s.afterPlan (writePixelPlan c)).panel = s.panel.writePixel s.cfg c := by
  rw [writePixelPlan, afterPlan_sendData_panel, Panel.receiveData_pixel s.cfg c h]

/-! ## A drawing command in `READY` whose transfers are all answered `OK` -/

/-- A plan does not see `RESULT`. -/
theorem State.afterPlan_setResult (p : List Action) (r : ResultCode) (s : State) :
    ({ s with result := r } : State).afterPlan p = { s.afterPlan p with result := r } := by
  induction p generalizing s with
  | nil => rfl
  | cons a p ih =>
    cases a with
    | setLine w => exact ih (s.setLine w)
    | tx bs => exact ih (s.txOk bs)
    | delay n => exact ih (s.emit (.delay n))

/-- `t` is `s` with the whole plan performed, `RESULT = OK` and `CP` moved on by `len`. -/
structure Drawn (plan : List Action) (len : Nat) (s t : State) : Prop where
  trace   : t.trace = s.trace ++ planEvents plan
  result  : t.result = .ok
  state   : t.state = .ready
  cp      : t.cp = s.cp + len
  txCount : t.txCount = s.txCount + planTransfers plan
  lines   : t.lines = (s.afterPlan plan).lines
  panel   : t.panel = (s.afterPlan plan).panel
  frame   : PanelFrame s t

theorem DrawingPlan.exec {i : Instr} {plan : Config → List Action} (h : DrawingPlan i plan) (s : State) :
    exec i s = .next (hostCommand (instrLength i) (needReady fun u => perform (plan u.cfg) u) s) := by
  cases h <;> rfl

theorem exec_drawn {i : Instr} {plan : Config → List Action} (h : DrawingPlan i plan) {s : State}
    (hs : s.state = .ready) (hr : s.repliesOk (planTransfers (plan s.cfg))) :
    ∃ t, exec i s = .next t ∧ Drawn (plan s.cfg) (instrLength i) s t := by
  refine ⟨_, h.exec s, ?_⟩
  have hpanel := planCommand_of_repliesOk (len := instrLength i) (body := fun u => perform (plan u.cfg) u)
    (plan := plan s.cfg) hs rfl hr
  obtain ⟨htrace, hresult, hstate, hcp, hcount, hlines, hframe⟩ :=
    planCommand_sends (len := instrLength i) (body := fun u => perform (plan u.cfg) u) (plan := plan s.cfg) hs rfl hr
  refine ⟨htrace, hresult, hstate, hcp, hcount, hlines, ?_, hframe⟩
  rw [hpanel, State.afterPlan_setResult]

end Sys2Proof.Machine
end

section
/-! The statements of 41_addressing.md and 20_memory.md on the window and one pixel settled here. -/

namespace Sys2Proof.Machine

/-- Settles O20: the controller's reaction to the window's three commands; the offset operands meet R65 exactly if the
operands do. -/
theorem setwinSetsTheControllersWindow : Obligations.SetwinSetsTheControllersWindow := by
  intro x0 y0 x1 y1 s hs hr
  obtain ⟨t, ht, hdrawn⟩ := exec_drawn (.setwin x0 y0 x1 y1) hs hr
  have hpanel := hdrawn.panel
  rw [afterPlan_setWindow_panel] at hpanel
  refine ⟨t, ht, congrArg Panel.regs hpanel, fun a => ?_⟩
  rw [hpanel]
  simp only [windowLegal_windowRegs]
  split <;> rfl

/-- Settles O22: the pixel's two bytes reach a controller that stores it at its pointer. -/
theorem wrpixStoresAtThePointer : Obligations.WrpixStoresAtThePointer := by
  intro color s hs hr hmode hwx0 hwx hwx1 hwy0 hwy hwy1 hpx hpy hwrap
  obtain ⟨t, ht, hdrawn⟩ := exec_drawn (.wrpix color) hs hr
  have hpanel := hdrawn.panel
  rw [afterPlan_writePixel_panel color hmode] at hpanel
  have hgram := Panel.writePixel_gram (cfg := s.cfg) color hpx hpy
    (Panel.windowLegal_iff.2 ⟨hwx0, hwx, hwx1, hwy0, hwy, hwy1⟩)
  refine ⟨t, ht, ?_, fun a ha => ?_, ?_⟩
  · rw [hpanel, hgram, Gram.read_write_same]
  · rw [hpanel, hgram, Gram.read_write_other _ _ ha]
  · rw [hpanel, Panel.writePixel_regs hwrap]

/-- Settles O24: the pixel's bytes are data the model does not follow. -/
theorem wrpixUnprimedFixesNothing : Obligations.WrpixUnprimedFixesNothing := by
  intro color b got s hs hr hmode
  obtain ⟨t, ht, hdrawn⟩ := exec_drawn (.wrpix color) hs hr
  have hpanel := hdrawn.panel
  rw [writePixelPlan, afterPlan_sendData_panel,
    Panel.receiveData_unprimed _ (by simp [bytesOf]) (hmode.imp id fun h => ⟨b, got, h⟩)] at hpanel
  refine ⟨t, ht, fun a => ?_⟩
  rw [hpanel, Panel.scramble_gram, Gram.read_nil]

/-- The command whose one transfer fails: the action of `TransportFail` after the bytes that went through (R29, R91). -/
theorem exec_wrpix_fails (color : Half) {reached : Nat} {s : State} (hs : s.state = .ready)
    (hfail : s.replyAt s.txCount = .fail reached) :
    exec (.wrpix color) s = .next
      { errorAction .transportFail
          (({ s with result := .ok }.setLine (.dc .data)).txFail (bytesOf color) reached) with cp := s.cp + 3 } := by
  have hperform : perform (writePixelPlan color) { s with result := .ok } = .raised .transportFail
      (({ s with result := .ok }.setLine (.dc .data)).txFail (bytesOf color) reached) := by
    have hreply : ({ s with result := .ok }.setLine (.dc .data)).replyAt
        ({ s with result := .ok }.setLine (.dc .data)).txCount = .fail reached := hfail
    simp only [writePixelPlan, sendData, perform, hreply]
  exact congrArg Host.Outcome.next
    (hostCommand_of_raised ((needReady_ready (s := { s with result := .ok }) hs).trans hperform))

/-- Settles O23: the controller has got as many of the two bytes as the reply says, and the second completes the
pixel. -/
theorem failedWrpixDeliversAPrefix : Obligations.FailedWrpixDeliversAPrefix := by
  intro color reached s hs hfail hmode
  refine ⟨_, exec_wrpix_fails color hs hfail, ?_, rfl, rfl, rfl, rfl, rfl, ⟨rfl, rfl, rfl, rfl, rfl, rfl, rfl⟩, ?_, ?_,
    ?_⟩
  · simp [errorAction, State.trace, bytesOf]
  · rintro rfl
    rfl
  · rintro rfl
    show s.panel.receiveData s.cfg [hiByte color] = _
    simp [Panel.receiveData, hmode]
  · intro htwo
    show s.panel.receiveData s.cfg ((bytesOf color).take reached) = _
    rw [List.take_of_length_le (by simpa using htwo), Panel.receiveData_pixel _ _ hmode]

end Sys2Proof.Machine
end

section
/-! The controller's memory after a plan (R41): the cells the plan writes, in order. -/

namespace Sys2Proof.Machine

namespace Gram

/-- The memory after the writes, in order. -/
def writeAll (ws : List (Nat × Half)) (g : List (Nat × Half)) : List (Nat × Half) :=
  ws.foldl (fun g w => write g w.1 w.2) g

theorem writeAll_append (ws vs : List (Nat × Half)) (g : List (Nat × Half)) :
    writeAll (ws ++ vs) g = writeAll vs (writeAll ws g) := List.foldl_append

/-- A cell none of the writes goes to. -/
theorem read_writeAll_other {ws : List (Nat × Half)} {a : Nat} (h : ∀ w ∈ ws, w.1 ≠ a) (g : List (Nat × Half)) :
    read (writeAll ws g) a = read g a := by
  induction ws generalizing g with
  | nil => rfl
  | cons w ws ih =>
    have hrest := ih (fun v hv => h v (List.mem_cons_of_mem w hv)) (write g w.1 w.2)
    exact hrest.trans (read_write_other _ _ (h w List.mem_cons_self).symm)

/-- A cell to which some of the writes go, all with the same value. -/
theorem read_writeAll_mem {ws : List (Nat × Half)} {a : Nat} {v : Half} (hmem : ∃ w ∈ ws, w.1 = a)
    (hval : ∀ w ∈ ws, w.1 = a → w.2 = v) (g : List (Nat × Half)) : read (writeAll ws g) a = some v := by
  induction ws generalizing g with
  | nil => simp at hmem
  | cons w ws ih =>
    by_cases hlater : ∃ u ∈ ws, u.1 = a
    · exact ih hlater (fun u hu => hval u (List.mem_cons_of_mem w hu)) _
    · have hw : w.1 = a := by
        obtain ⟨u, hu, hua⟩ := hmem
        rcases List.mem_cons.1 hu with rfl | hu
        · exact hua
        · exact absurd ⟨u, hu, hua⟩ hlater
      have hfirst : read (writeAll ws (write g w.1 w.2)) a = read (write g w.1 w.2) a :=
        read_writeAll_other (fun u hu hua => hlater ⟨u, hu, hua⟩) _
      rw [← hval w List.mem_cons_self hw, ← hw] at *
      exact hfirst.trans (read_write_same g w.1 w.2)

end Gram

/-- Performed with every transfer answered `OK`, the plan writes the cells `ws`, in order, whatever the controller was
doing before. -/
def Paints (cfg : Config) (plan : List Action) (ws : List (Nat × Half)) : Prop :=
  ∀ s : State, s.cfg = cfg → (s.afterPlan plan).panel.gram = Gram.writeAll ws s.panel.gram

namespace Paints

variable {cfg : Config}

theorem nil : Paints cfg [] [] := fun _ _ => rfl

theorem append {p q : List Action} {ws vs : List (Nat × Half)} (hp : Paints cfg p ws) (hq : Paints cfg q vs) :
    Paints cfg (p ++ q) (ws ++ vs) := by
  intro s hs
  rw [State.afterPlan_append, Gram.writeAll_append, ← hp s hs]
  exact hq _ ((State.afterPlan_cfg p s).trans hs)

theorem flatMap {α : Type} {f : α → List Action} {ws : α → List (Nat × Half)} {l : List α}
    (h : ∀ a ∈ l, Paints cfg (f a) (ws a)) : Paints cfg (l.flatMap f) (l.flatMap ws) := by
  induction l with
  | nil => exact nil
  | cons a l ih => exact append (h a List.mem_cons_self) (ih fun b hb => h b (List.mem_cons_of_mem a hb))

theorem flatMap_map {α : Type} {f : α → List Action} {w : α → Nat × Half} {l : List α}
    (h : ∀ a ∈ l, Paints cfg (f a) [w a]) : Paints cfg (l.flatMap f) (l.map w) :=
  List.map_eq_flatMap .. ▸ flatMap h

end Paints

/-! ## Pixels and characters -/

/-- The memory holds the panel. -/
structure HoldsPanel (cfg : Config) : Prop where
  width  : 130 ≤ cfg.gramW
  height : 161 ≤ cfg.gramH

/-- R42: the address of a logical pixel. -/
def pixelAddr (cfg : Config) (x y : Nat) : Nat := gramAddr cfg (x + 2) (y + 1)

/-- Cells of the panel have addresses of their own. -/
theorem pixelAddr_inj {cfg : Config} (h : HoldsPanel cfg) {x y x' y' : Nat} (hx : x < 128) (hx' : x' < 128)
    (heq : pixelAddr cfg x y = pixelAddr cfg x' y') : x = x' ∧ y = y' := by
  have hw := h.width
  simp only [pixelAddr, gramAddr] at heq
  have hrow : y + 1 = y' + 1 := by
    have := congrArg (· / cfg.gramW) heq
    simpa [Nat.mul_comm _ cfg.gramW, Nat.mul_add_div (show 0 < cfg.gramW by omega),
      Nat.div_eq_of_lt (show x + 2 < cfg.gramW by omega), Nat.div_eq_of_lt (show x' + 2 < cfg.gramW by omega)] using this
  rw [hrow] at heq
  omega

theorem logicalPixel_eq {s : State} (h : HoldsPanel s.cfg) {x y : Nat} (hx : x < 128) (hy : y < 160) :
    s.logicalPixel x y = Gram.read s.panel.gram (pixelAddr s.cfg x y) := by
  have hw := h.width
  have hh := h.height
  exact if_pos ⟨hx, hy, show x + 2 < _ by omega, show y + 1 < _ by omega⟩

/-- R41, R71: an on-panel pixel draw writes that pixel's cell. -/
theorem paints_drawPixel {cfg : Config} (hcfg : HoldsPanel cfg) {x y : Half} (c : Half) (hx : x.toNat < 128)
    (hy : y.toNat < 160) : Paints cfg (drawPixelPlan x y c) [(pixelAddr cfg x.toNat y.toNat, c)] := by
  rintro s rfl
  have hw := hcfg.width
  have hh := hcfg.height
  have hlegal : Panel.windowLegal (windowRegs x y x y) = true :=
    windowLegal_windowRegs.2 ⟨Nat.le_refl _, hx, Nat.le_refl _, hy⟩
  have hcol : (x + 2).toNat = x.toNat + 2 := by bv_omega
  have hrow : (y + 1).toNat = y.toNat + 1 := by bv_omega
  have hwindow : (s.afterPlan (setWindowPlan x y x y)).panel = { s.panel with regs := windowRegs x y x y } := by
    rw [afterPlan_setWindow_panel, if_pos hlegal]
  have hgram := Panel.writePixel_gram (cfg := s.cfg) (p := { s.panel with regs := windowRegs x y x y }) c
    (show (x + 2).toNat < s.cfg.gramW by omega) (show (y + 1).toNat < s.cfg.gramH by omega) hlegal
  have haddr : gramAddr s.cfg (x + 2).toNat (y + 1).toNat = pixelAddr s.cfg x.toNat y.toNat := by rw [hcol, hrow]; rfl
  rw [drawPixelPlan_inside c hx hy, State.afterPlan_append,
    afterPlan_writePixel_panel _ (congrArg (fun p => p.regs.mode) hwindow), State.afterPlan_cfg, hwindow, hgram]
  exact congrArg (fun a => Gram.write s.panel.gram a c) haddr

/-- R37, R73: the colour of a drawn character's pixel; column 5 is the spacing column. -/
def glyphColour (cfg : Config) (code : Byte) (fg bg : Half) (k r : Nat) : Half :=
  if k < 5 ∧ (cfg.glyph.getD (5 * code.toNat + k) 0).getLsbD r = true then fg else bg

theorem glyphColour_glyph (cfg : Config) (code : Byte) (fg bg : Half) {k : Nat} (hk : k < 5) (r : Nat) :
    glyphColour cfg code fg bg k r = if (grom cfg (5 * code.toNat + k)).getLsbD r then fg else bg :=
  if_congr (and_iff_right hk) rfl rfl

/-- The writes of a drawn character (R73). -/
def cellWrites (cfg : Config) (x y : Nat) (code : Byte) (fg bg : Half) : List (Nat × Half) :=
  (List.range 6).flatMap fun k => (List.range 8).map fun r =>
    (pixelAddr cfg (x + k) (y + r), glyphColour cfg code fg bg k r)

theorem mem_cellWrites {cfg : Config} {x y : Nat} {code : Byte} {fg bg : Half} {w : Nat × Half} :
    w ∈ cellWrites cfg x y code fg bg ↔
      ∃ k r, k < 6 ∧ r < 8 ∧ w = (pixelAddr cfg (x + k) (y + r), glyphColour cfg code fg bg k r) := by
  simp only [cellWrites, List.mem_flatMap, List.mem_map, List.mem_range]
  exact ⟨fun ⟨k, hk, r, hr, hw⟩ => ⟨k, r, hk, hr, hw.symm⟩, fun ⟨k, r, hk, hr, hw⟩ => ⟨k, hk, r, hr, hw.symm⟩⟩

/-- A drawn character writes its cell's pixels. -/
theorem paints_drawChar {cfg : Config} (hcfg : HoldsPanel cfg) {x y : Half} {code : Byte} (fg bg : Half)
    (h : charDrawn x y code = true) :
    Paints cfg (drawCharPlan cfg x y code fg bg) (cellWrites cfg x.toNat y.toNat code fg bg) := by
  obtain ⟨-, hx, hy⟩ := charDrawn_iff.1 h
  have hpixel : ∀ k r c, k < 6 → r < 8 → Paints cfg (drawPixelPlan (x + BitVec.ofNat 16 k) (y + BitVec.ofNat 16 r) c)
      [(pixelAddr cfg (x.toNat + k) (y.toNat + r), c)] := by
    intro k r c hk hr
    obtain ⟨hcol, hrow⟩ := cellPixel_inside hx hy hk hr
    have hpaints := paints_drawPixel hcfg c (x := x + BitVec.ofNat 16 k) (y := y + BitVec.ofNat 16 r) (by omega) (by omega)
    rwa [hcol, hrow] at hpaints
  have hsplit : cellWrites cfg x.toNat y.toNat code fg bg =
      ((List.range 5).flatMap fun k => (List.range 8).map fun r => (pixelAddr cfg (x.toNat + k) (y.toNat + r),
        if (grom cfg (5 * code.toNat + k)).getLsbD r then fg else bg)) ++
      (List.range 8).map fun r => (pixelAddr cfg (x.toNat + 5) (y.toNat + r), bg) := by
    rw [cellWrites, List.range_succ (n := 5), List.flatMap_append, List.flatMap_singleton]
    congr 1
    refine List.flatMap_congr fun k hk => ?_
    exact List.map_congr_left fun r _ => congrArg (Prod.mk _) (glyphColour_glyph cfg code fg bg (List.mem_range.1 hk) r)
  rw [drawCharPlan, if_pos h, hsplit]
  refine Paints.append (Paints.flatMap fun k hk => ?_) ?_
  · have hk5 : k < 5 := List.mem_range.1 hk
    exact Paints.flatMap_map fun r hr => hpixel k r _ (by omega) (List.mem_range.1 hr)
  · exact Paints.flatMap_map fun r hr => hpixel 5 r bg (by omega) (List.mem_range.1 hr)

/-- A character, drawn or not, leaves every cell outside its own pixels as it was. -/
theorem drawChar_keeps {cfg : Config} (hcfg : HoldsPanel cfg) {x y : Half} {code : Byte} (fg bg : Half) {s : State}
    (hs : s.cfg = cfg) {a : Nat}
    (h : charDrawn x y code = true → ∀ k r, k < 6 → r < 8 → a ≠ pixelAddr cfg (x.toNat + k) (y.toNat + r)) :
    Gram.read (s.afterPlan (drawCharPlan cfg x y code fg bg)).panel.gram a = Gram.read s.panel.gram a := by
  by_cases hd : charDrawn x y code = true
  · rw [paints_drawChar hcfg fg bg hd s hs]
    refine Gram.read_writeAll_other (fun w hw => ?_) _
    obtain ⟨k, r, hk, hr, rfl⟩ := mem_cellWrites.1 hw
    exact (h hd k r hk hr).symm
  · rw [drawCharPlan_undrawn cfg fg bg (Bool.eq_false_of_not_eq_true hd)]
    rfl

/-- A string leaves every cell outside the pixels of the characters it draws as it was (R75). -/
theorem drawString_keeps {cfg : Config} (hcfg : HoldsPanel cfg) {y fg bg : Half} {text : List Byte} {cx : Nat}
    {s : State} (hs : s.cfg = cfg) {a : Nat}
    (h : ∀ (k : Nat) (code : Byte) (dx dy : Nat), text[k]? = some code → cx + 6 * k ≤ 122 → 32 ≤ code.toNat →
      code.toNat ≤ 126 → y.toNat ≤ 152 → dx < 6 → dy < 8 → a ≠ pixelAddr cfg (cx + 6 * k + dx) (y.toNat + dy)) :
    Gram.read (s.afterPlan (drawStringPlan cfg y fg bg cx text)).panel.gram a = Gram.read s.panel.gram a := by
  induction text generalizing cx s with
  | nil => rfl
  | cons code text ih =>
    rw [drawStringPlan]
    split
    · rfl
    · next hmargin =>
      have hcx : cx ≤ 122 := Nat.le_of_not_lt hmargin
      have hcol : (BitVec.ofNat 16 cx).toNat = cx := Nat.mod_eq_of_lt (by omega)
      have hfirst := drawChar_keeps hcfg (x := BitVec.ofNat 16 cx) (y := y) (code := code) fg bg hs (a := a)
        fun hd k r hk hr => by
          obtain ⟨⟨hlo, hhi⟩, -, hy⟩ := charDrawn_iff.1 hd
          rw [hcol]
          exact h 0 code k r rfl (by omega) hlo hhi hy hk hr
      rw [State.afterPlan_append]
      refine (ih ((State.afterPlan_cfg _ s).trans hs) fun k code' dx dy hget hk hlo hhi hy hdx hdy => ?_).trans hfirst
      simp only [Config.CELL_W] at hk ⊢
      rw [show cx + 6 + 6 * k = cx + 6 * (k + 1) by omega] at hk ⊢
      exact h (k + 1) code' dx dy hget hk hlo hhi hy hdx hdy

end Sys2Proof.Machine
end

section
/-! Filling the panel (R41, R70): the pointer visits the panel's cells in row-major order. -/

namespace Sys2Proof.Machine

/-! ## The pointer moves on (R41) -/

namespace Panel

variable {cfg : Config} {p : Panel}

theorem advancePointer_inRow (h : (p.regs.px + 1).toNat ≤ p.regs.wx1.toNat) :
    (advancePointer cfg p).regs = { p.regs with px := p.regs.px + 1 } := by
  simp only [advancePointer, if_pos h]

theorem advancePointer_nextRow (h : ¬ (p.regs.px + 1).toNat ≤ p.regs.wx1.toNat)
    (hrow : (p.regs.py + 1).toNat ≤ p.regs.wy1.toNat) :
    (advancePointer cfg p).regs = { p.regs with px := p.regs.wx0, py := p.regs.py + 1 } := by
  simp only [advancePointer, if_neg h, if_pos hrow]

theorem advancePointer_wraps (h : ¬ (p.regs.px + 1).toNat ≤ p.regs.wx1.toNat)
    (hrow : ¬ (p.regs.py + 1).toNat ≤ p.regs.wy1.toNat) (hwrap : cfg.wrap = .toWindowStart) :
    (advancePointer cfg p).regs = { p.regs with px := p.regs.wx0, py := p.regs.wy0 } := by
  simp only [advancePointer, if_neg h, if_neg hrow, hwrap]

end Panel

/-- The registers of a controller that has got `n` pixels through the full panel's window: the pointer at pixel `n` in
row-major order, back at the start after the last. -/
def fillRegs (n : Nat) : PanelRegs :=
  { windowRegs 0 0 127 159 with px := BitVec.ofNat 16 (n % 128 + 2), py := BitVec.ofNat 16 (n / 128 % 160 + 1) }

/-- The write of pixel `n` of the panel. -/
def fillWrite (cfg : Config) (c : Half) (n : Nat) : Nat × Half := (pixelAddr cfg (n % 128) (n / 128 % 160), c)

theorem fillRegs_px (n : Nat) : (fillRegs n).px.toNat = n % 128 + 2 := Nat.mod_eq_of_lt (by omega)

theorem fillRegs_py (n : Nat) : (fillRegs n).py.toNat = n / 128 % 160 + 1 := Nat.mod_eq_of_lt (by omega)

theorem fillRegs_legal (n : Nat) : Panel.windowLegal (fillRegs n) = true := rfl

/-- Registers of the full window with the pointer at pixel `n`. -/
theorem eq_fillRegs {m n : Nat} {px py : Half} (hx : px.toNat = n % 128 + 2) (hy : py.toNat = n / 128 % 160 + 1) :
    { fillRegs m with px := px, py := py } = fillRegs n := by
  have hpx : px = BitVec.ofNat 16 (n % 128 + 2) := BitVec.eq_of_toNat_eq (hx.trans (fillRegs_px n).symm)
  have hpy : py = BitVec.ofNat 16 (n / 128 % 160 + 1) := BitVec.eq_of_toNat_eq (hy.trans (fillRegs_py n).symm)
  rw [hpx, hpy]
  rfl

/-- R41: the pointer's next place: in the row, at the next row's start, or past the last row where `WRAP` puts it. -/
theorem writePixel_fillRegs {cfg : Config} {p : Panel} {n : Nat} (hp : p.regs = fillRegs n) (c : Half)
    (hn : n < 20480) (hwrap : n + 1 < 20480 ∨ cfg.wrap = .toWindowStart) :
    (Panel.writePixel cfg p c).regs = fillRegs (n + 1) := by
  have hpx := fillRegs_px n
  have hpy := fillRegs_py n
  have hcol : ((fillRegs n).px + 1).toNat = n % 128 + 3 := by bv_omega
  have hrow : ((fillRegs n).py + 1).toNat = n / 128 % 160 + 2 := by bv_omega
  have hwx1 : (fillRegs n).wx1.toNat = 129 := rfl
  have hwy1 : (fillRegs n).wy1.toNat = 160 := rfl
  have hwx0 : (fillRegs n).wx0.toNat = 2 := rfl
  have hwy0 : (fillRegs n).wy0.toNat = 1 := rfl
  rw [← hp] at hpx hpy hcol hrow hwx1 hwy1 hwx0 hwy0
  unfold Panel.writePixel
  by_cases hend : n % 128 < 127
  · rw [Panel.advancePointer_inRow (by dsimp only; omega)]
    exact (congrArg (fun r => { r with px := p.regs.px + 1, py := p.regs.py }) hp).trans
      (eq_fillRegs (m := n) (n := n + 1) (by omega) (by omega))
  · by_cases hlast : n / 128 % 160 < 159
    · rw [Panel.advancePointer_nextRow (by dsimp only; omega) (by dsimp only; omega)]
      exact (congrArg (fun r => { r with px := p.regs.wx0, py := p.regs.py + 1 }) hp).trans
        (eq_fillRegs (m := n) (n := n + 1) (by omega) (by omega))
    · rw [Panel.advancePointer_wraps (by dsimp only; omega) (by dsimp only; omega) (hwrap.resolve_left (by omega))]
      exact (congrArg (fun r => { r with px := p.regs.wx0, py := p.regs.wy0 }) hp).trans
        (eq_fillRegs (m := n) (n := n + 1) (by omega) (by omega))

/-- The last `m` pixels of the panel, from pixel `n` on: their writes, and the pointer back at the window's start by the
default `WRAP`. -/
theorem afterPlan_pixelRun {m n : Nat} {s : State} (hcfg : HoldsPanel s.cfg) (c : Half) (hnm : n + m = 20480)
    (hs : n < 20480 ∨ s.cfg.wrap = .toWindowStart → s.panel.regs = fillRegs n) :
    (s.afterPlan (pixelRunPlan m c)).panel.gram =
      Gram.writeAll ((List.range' n m).map (fillWrite s.cfg c)) s.panel.gram ∧
    (s.cfg.wrap = .toWindowStart → (s.afterPlan (pixelRunPlan m c)).panel.regs = fillRegs 20480) := by
  induction m generalizing n s with
  | zero =>
    refine ⟨rfl, fun hwrap => ?_⟩
    rw [← hnm]
    exact hs (.inr hwrap)
  | succ m ih =>
    have hw := hcfg.width
    have hh := hcfg.height
    have hregs := hs (.inl (by omega))
    have hpx := fillRegs_px n
    have hpy := fillRegs_py n
    rw [← hregs] at hpx hpy
    have hpanel := afterPlan_writePixel_panel c (s := s) (by rw [hregs]; rfl)
    have hgram := Panel.writePixel_gram (cfg := s.cfg) (p := s.panel) c (by omega) (by omega) (hregs ▸ fillRegs_legal n)
    have hkept := State.afterPlan_cfg (writePixelPlan c) s
    have hnext := ih (n := n + 1) (s := s.afterPlan (writePixelPlan c)) (hkept ▸ hcfg) (by omega) fun h => by
      rw [hpanel]
      rw [hkept] at h
      exact writePixel_fillRegs hregs c (by omega) h
    rw [hkept, hpanel, hgram, hpx, hpy] at hnext
    rw [pixelRunPlan, State.afterPlan_append]
    exact hnext

/-- R41, R70: `DoFill` writes every pixel of the panel, in row-major order. -/
theorem afterPlan_fill {s : State} (hcfg : HoldsPanel s.cfg) (c : Half) :
    (s.afterPlan (fillPlan c)).panel.gram =
      Gram.writeAll ((List.range' 0 20480).map (fillWrite s.cfg c)) s.panel.gram ∧
    (s.cfg.wrap = .toWindowStart → (s.afterPlan (fillPlan c)).panel.regs = fillRegs 20480) := by
  have hsplit : fillPlan c = setWindowPlan 0 0 127 159 ++ pixelRunPlan 20480 c := rfl
  have hwindow : (s.afterPlan (setWindowPlan 0 0 127 159)).panel = { s.panel with regs := fillRegs 0 } := by
    have hlegal : Panel.windowLegal (windowRegs 0 0 127 159) = true := rfl
    rw [afterPlan_setWindow_panel, if_pos hlegal]
    rfl
  have hkept := State.afterPlan_cfg (setWindowPlan 0 0 127 159) s
  have hrun := afterPlan_pixelRun (n := 0) (m := 20480) (s := s.afterPlan (setWindowPlan 0 0 127 159))
    (by rw [hkept]; exact hcfg) c (Nat.zero_add _) fun _ => congrArg Panel.regs hwindow
  rw [hkept, hwindow] at hrun
  rw [hsplit, State.afterPlan_append]
  exact hrun

theorem mem_fillWrites {cfg : Config} {c : Half} {w : Nat × Half} :
    w ∈ (List.range' 0 20480).map (fillWrite cfg c) ↔
      ∃ x y, x < 128 ∧ y < 160 ∧ w = (pixelAddr cfg x y, c) := by
  simp only [List.mem_map, List.mem_range'_1]
  constructor
  · rintro ⟨n, -, rfl⟩
    exact ⟨n % 128, n / 128 % 160, by omega, by omega, rfl⟩
  · rintro ⟨x, y, hx, hy, rfl⟩
    refine ⟨y * 128 + x, by omega, ?_⟩
    rw [fillWrite, show (y * 128 + x) % 128 = x by omega, show (y * 128 + x) / 128 % 160 = y by omega]

end Sys2Proof.Machine
end

section
/-! The data/command line and the events of the painter's plans (R30, R31, R70 to R75). -/

namespace Sys2Proof.Machine

/-- A plan of sends drives DC only, and leaves it as its events say (R18). -/
theorem Sends.afterPlan_lines {C : List PanelCmd} {p : List Action} (hp : Sends C p) (s : State) :
    (s.afterPlan p).lines = { s.lines with dc := dcAfter s.lines.dc (planEvents p) } := by
  induction hp generalizing s with
  | nil => rfl
  | cmd hc _ ih => rw [State.afterPlan_append, ih, planEvents_append, dcAfter_append]; rfl
  | data bs _ ih => rw [State.afterPlan_append, ih, planEvents_append, dcAfter_append]; rfl
  | delay n _ ih => exact ih _

/-- The events leave DC at data, or there are none. -/
def EndsAtData (evs : List Event) : Prop := evs = [] ∨ ∀ dc, dcAfter dc evs = .data

theorem EndsAtData.dcAfter {evs : List Event} (h : EndsAtData evs) (dc : DcState) :
    dcAfter dc evs = if evs = [] then dc else .data := by
  split
  · next hnil => rw [hnil]; rfl
  · next hne => exact (h.resolve_left hne) dc

theorem EndsAtData.append {e f : List Event} (he : EndsAtData e) (hf : EndsAtData f) : EndsAtData (e ++ f) := by
  rcases hf with rfl | hf
  · rwa [List.append_nil]
  · exact .inr fun dc => by rw [dcAfter_append, hf]

theorem EndsAtData.flatMap {α : Type} {f : α → List Event} {l : List α} (h : ∀ a ∈ l, EndsAtData (f a)) :
    EndsAtData (l.flatMap f) := by
  induction l with
  | nil => exact .inl rfl
  | cons a l ih => exact append (h a List.mem_cons_self) (ih fun b hb => h b (List.mem_cons_of_mem a hb))

theorem endsAtData_pixelSent (x y c : Half) : EndsAtData (pixelSent x y c) := .inr fun _ => rfl

theorem endsAtData_charSent (cfg : Config) (x y : Half) (code : Byte) (fg bg : Half) :
    EndsAtData (charSent cfg x y code fg bg) :=
  .append (.flatMap fun _ _ => .flatMap fun _ _ => endsAtData_pixelSent _ _ _) (.flatMap fun _ _ => endsAtData_pixelSent _ _ _)

theorem charSent_ne_nil (cfg : Config) (x y : Half) (code : Byte) (fg bg : Half) :
    charSent cfg x y code fg bg ≠ [] := by
  simp [charSent, pixelSent, dataSent, List.range_succ]

theorem endsAtData_pixels (n : Nat) (c : Half) :
    EndsAtData (List.replicate n (dataSent [hiByte c, loByte c])).flatten := by
  induction n with
  | zero => exact .inl rfl
  | succ n ih =>
    have hone : EndsAtData (dataSent [hiByte c, loByte c]) := .inr fun _ => rfl
    rw [List.replicate_succ, List.flatten_cons]
    exact hone.append ih

end Sys2Proof.Machine
end

section
/-! The statements of 41_addressing.md and 42_painter.md settled here. -/

namespace Sys2Proof.Machine

theorem planEvents_fill (c : Half) : planEvents (fillPlan c) =
    windowSent 0 0 127 159 ++ (List.replicate 20480 (dataSent [hiByte c, loByte c])).flatten := by
  have hsplit : fillPlan c = setWindowPlan 0 0 127 159 ++ pixelRunPlan 20480 c := rfl
  rw [hsplit, planEvents_append, planEvents_setWindow, planEvents_pixelRun]

theorem planTransfers_fill (c : Half) : planTransfers (fillPlan c) = 20485 := by
  have hsplit : fillPlan c = setWindowPlan 0 0 127 159 ++ pixelRunPlan 20480 c := rfl
  rw [hsplit, planTransfers_append, planTransfers_setWindow, planTransfers_pixelRun]

theorem afterPlan_fill_lines (c : Half) (s : State) : (s.afterPlan (fillPlan c)).lines = { s.lines with dc := .data } := by
  have hlast : planEvents (fillPlan c) = windowSent 0 0 127 159 ++ (dataSent [hiByte c, loByte c] ++
      (List.replicate 20479 (dataSent [hiByte c, loByte c])).flatten) := by
    rw [planEvents_fill, List.replicate_succ (n := 20479), List.flatten_cons]
  rw [(Sends.fill c).afterPlan_lines, hlast, dcAfter_append, dcAfter_append, (endsAtData_pixels 20479 c).dcAfter]
  split <;> rfl

/-- `FILL` and its two other names perform `DoFill` (R56, R70). -/
theorem drawingPlan_fill {c : Half} {i : Instr} (hi : i = .fill c ∨ i = .clear c ∨ i = .fillscreen c) :
    DrawingPlan i (fun _ => fillPlan c) ∧ instrLength i = 3 := by
  rcases hi with rfl | rfl | rfl
  · exact ⟨.fill c, rfl⟩
  · exact ⟨.clear c, rfl⟩
  · exact ⟨.fillscreen c, rfl⟩

/-- Settles O25: the plan is the full panel's window and 20480 pixels. -/
theorem fillSendsTheWholePanel : Obligations.FillSendsTheWholePanel := by
  intro c i s hi hs hr
  obtain ⟨hplan, hlen⟩ := drawingPlan_fill hi
  obtain ⟨t, ht, hd⟩ := exec_drawn hplan hs (by rwa [planTransfers_fill])
  refine ⟨t, ht, ?_, hd.result, hd.state, hlen ▸ hd.cp, planTransfers_fill c ▸ hd.txCount, ?_, hd.frame⟩
  · rw [hd.trace, planEvents_fill, List.append_assoc]
  · rw [hd.lines, afterPlan_fill_lines]

/-- Settles O26: the 20480 pixels go to the panel's cells, each once, in row-major order. -/
theorem fillPaintsEveryPixel : Obligations.FillPaintsEveryPixel := by
  intro c s hs hr hw hh
  have hcfg : HoldsPanel s.cfg := ⟨hw, hh⟩
  obtain ⟨t, ht, hd⟩ := exec_drawn (.fill c) hs (by rwa [planTransfers_fill])
  obtain ⟨hgram, hregs⟩ := afterPlan_fill hcfg c
  refine ⟨t, ht, fun x y hx hy => ?_, fun a ha => ?_, fun hwrap => ?_⟩
  · rw [logicalPixel_eq (hd.frame.cfg ▸ hcfg) hx hy, hd.frame.cfg, hd.panel, hgram]
    refine Gram.read_writeAll_mem ⟨_, mem_fillWrites.2 ⟨x, y, hx, hy, rfl⟩, rfl⟩ (fun w hw _ => ?_) _
    obtain ⟨x', y', -, -, rfl⟩ := mem_fillWrites.1 hw
    rfl
  · rw [hd.panel, hgram]
    refine Gram.read_writeAll_other (fun w hw => ?_) _
    obtain ⟨x, y, hx, hy, rfl⟩ := mem_fillWrites.1 hw
    exact (ha x y hx hy).symm
  · rw [hd.panel, hregs hwrap]
    exact ⟨rfl, rfl⟩

/-- Settles O28: the plan's one write is the pixel's cell. -/
theorem drawpixPaintsExactlyItsPixel : Obligations.DrawpixPaintsExactlyItsPixel := by
  intro x y c s hs hx hy hr hw hh
  have hcfg : HoldsPanel s.cfg := ⟨hw, hh⟩
  obtain ⟨t, ht, hd⟩ := exec_drawn (.drawpix x y c) hs (by rwa [planTransfers_drawPixel c hx hy])
  have hgram := paints_drawPixel hcfg c hx hy s rfl
  refine ⟨t, ht, ?_, fun a ha => ?_⟩
  · rw [logicalPixel_eq (hd.frame.cfg ▸ hcfg) hx hy, hd.frame.cfg, hd.panel, hgram]
    exact Gram.read_write_same _ _ _
  · rw [hd.panel, hgram]
    exact Gram.read_write_other _ _ ha

theorem afterPlan_drawChar_lines {cfg : Config} {x y : Half} {code : Byte} (fg bg : Half)
    (h : charDrawn x y code = true) (s : State) :
    (s.afterPlan (drawCharPlan cfg x y code fg bg)).lines = { s.lines with dc := .data } := by
  rw [(Sends.drawChar cfg x y code fg bg).afterPlan_lines, (drawCharPlan_drawn cfg fg bg h).1,
    (endsAtData_charSent _ _ _ _ _ _).dcAfter, if_neg (charSent_ne_nil _ _ _ _ _ _)]

/-- Settles O29: the plan of a drawn character is its 48 pixel draws, and that of any other is empty (R95). -/
theorem drawcharSendsTheCellOrNothing : Obligations.DrawcharSendsTheCellOrNothing := by
  refine ⟨fun x y code fg bg s hs hlo hhi hx hy hr => ?_, fun x y code fg bg s hs hout => ?_⟩
  · have hdrawn : charDrawn x y code = true := charDrawn_iff.2 ⟨⟨hlo, hhi⟩, hx, hy⟩
    obtain ⟨hevents, htransfers⟩ := drawCharPlan_drawn s.cfg fg bg hdrawn
    obtain ⟨t, ht, hd⟩ := exec_drawn (.drawchar x y code fg bg) hs (by rwa [htransfers])
    refine ⟨t, ht, hevents ▸ hd.trace, hd.result, hd.state, hd.cp, htransfers ▸ hd.txCount, ?_, hd.frame⟩
    rw [hd.lines, afterPlan_drawChar_lines fg bg hdrawn]
  · have hundrawn : charDrawn x y code = false := by
      rw [Bool.eq_false_iff, ne_eq, charDrawn_iff]
      omega
    have hsilent := silentCommand (len := instrLength (.drawchar x y code fg bg))
      (body := fun u => perform (drawCharPlan u.cfg x y code fg bg) u) hs
      (by rw [drawCharPlan_undrawn _ fg bg hundrawn]; rfl)
    exact congrArg Host.Outcome.next hsilent

/-- Settles O30: the 48 writes go to the cell's 48 pixels, each with the glyph's colour. -/
theorem drawcharPaintsTheGlyph : Obligations.DrawcharPaintsTheGlyph := by
  intro x y code fg bg s hs hlo hhi hx hy hr hw hh
  have hcfg : HoldsPanel s.cfg := ⟨hw, hh⟩
  have hdrawn : charDrawn x y code = true := charDrawn_iff.2 ⟨⟨hlo, hhi⟩, hx, hy⟩
  obtain ⟨t, ht, hd⟩ := exec_drawn (.drawchar x y code fg bg) hs (by rwa [(drawCharPlan_drawn s.cfg fg bg hdrawn).2])
  have hgram := paints_drawChar hcfg fg bg hdrawn s rfl
  refine ⟨t, ht, fun dx dy hdx hdy => ?_, fun a ha => ?_⟩
  · rw [logicalPixel_eq (hd.frame.cfg ▸ hcfg) (by omega) (by omega), hd.frame.cfg, hd.panel, hgram]
    refine Gram.read_writeAll_mem ⟨_, mem_cellWrites.2 ⟨dx, dy, hdx, hdy, rfl⟩, rfl⟩ (fun w hw heq => ?_) _
    obtain ⟨k, r, hk, hr, rfl⟩ := mem_cellWrites.1 hw
    obtain ⟨hcol, hrow⟩ := pixelAddr_inj hcfg (by omega) (by omega) heq
    rw [show k = dx by omega, show r = dy by omega]
    rfl
  · rw [hd.panel, hgram]
    refine Gram.read_writeAll_other (fun w hw => ?_) _
    obtain ⟨k, r, hk, hr, rfl⟩ := mem_cellWrites.1 hw
    exact (ha k r hk hr).symm

/-! ## The string painter (R75) -/

theorem planTransfers_drawString_le (cfg : Config) (y fg bg : Half) (cx : Nat) (text : List Byte) :
    planTransfers (drawStringPlan cfg y fg bg cx text) ≤ 288 * text.length := by
  induction text generalizing cx with
  | nil => simp [drawStringPlan, planTransfers]
  | cons code text ih =>
    rw [drawStringPlan]
    split
    · simp [planTransfers]
    · rw [planTransfers_append, List.length_cons]
      have hfirst := cellPlan_transfers_le cfg (BitVec.ofNat 16 cx) y code fg bg
      have hrest := ih (cx + Config.CELL_W)
      omega

/-- Settles O32: each character drawn writes its own cell only. -/
theorem drawstrPaintsOnlyItsCells : Obligations.DrawstrPaintsOnlyItsCells := by
  intro x y fg bg text s hs hr hw hh
  have hcfg : HoldsPanel s.cfg := ⟨hw, hh⟩
  obtain ⟨t, ht, hd⟩ := exec_drawn (.drawstr x y fg bg text) hs
    (State.repliesOk_mono (planTransfers_drawString_le _ _ _ _ _ _) hr)
  refine ⟨t, ht, fun a ha => ?_⟩
  rw [hd.panel]
  exact drawString_keeps hcfg rfl fun k code dx dy hget hk hlo hhi hy hdx hdy =>
    ha k code dx dy hget hk hlo hhi hy hdx hdy

/-- The events of the character with number `k` of a string that begins at pixel column `x`. -/
def charAtSent (cfg : Config) (x y fg bg : Half) (p : Byte × Nat) : List Event :=
  if x.toNat + 6 * p.2 ≤ 122 ∧ 32 ≤ p.1.toNat ∧ p.1.toNat ≤ 126 ∧ y.toNat ≤ 152 then
    charSent cfg (x + BitVec.ofNat 16 (6 * p.2)) y p.1 fg bg
  else []

theorem endsAtData_charAtSent (cfg : Config) (x y fg bg : Half) (p : Byte × Nat) :
    EndsAtData (charAtSent cfg x y fg bg p) := by
  unfold charAtSent
  split
  · exact endsAtData_charSent _ _ _ _ _ _
  · exact .inl rfl

/-- Past the right margin nothing is drawn (R75). -/
theorem charAtSent_pastMargin {cfg : Config} {x y fg bg : Half} {k : Nat} (hk : 122 < x.toNat + 6 * k)
    (text : List Byte) : (text.zipIdx k).flatMap (charAtSent cfg x y fg bg) = [] := by
  rw [List.flatMap_eq_nil_iff]
  intro p hp
  have hidx := List.le_snd_of_mem_zipIdx hp
  exact if_neg fun h => by omega

/-- A character that begins at or before the right margin. -/
theorem planEvents_drawChar_at {cfg : Config} {x y fg bg : Half} {k : Nat} (hk : x.toNat + 6 * k ≤ 122) (code : Byte) :
    planEvents (drawCharPlan cfg (BitVec.ofNat 16 (x.toNat + 6 * k)) y code fg bg) =
      charAtSent cfg x y fg bg (code, k) := by
  have hcol : (BitVec.ofNat 16 (x.toNat + 6 * k)).toNat = x.toNat + 6 * k := Nat.mod_eq_of_lt (by omega)
  have hx : x + BitVec.ofNat 16 (6 * k) = BitVec.ofNat 16 (x.toNat + 6 * k) := by
    rw [BitVec.ofNat_add, BitVec.ofNat_toNat, BitVec.setWidth_eq]
  have hiff : charDrawn (BitVec.ofNat 16 (x.toNat + 6 * k)) y code = true ↔
      x.toNat + 6 * k ≤ 122 ∧ 32 ≤ code.toNat ∧ code.toNat ≤ 126 ∧ y.toNat ≤ 152 := by
    rw [charDrawn_iff, hcol]
    tauto
  unfold charAtSent
  by_cases hd : charDrawn (BitVec.ofNat 16 (x.toNat + 6 * k)) y code = true
  · rw [if_pos (hiff.1 hd), (drawCharPlan_drawn cfg fg bg hd).1, hx]
  · rw [if_neg (fun h => hd (hiff.2 h)), drawCharPlan_undrawn cfg fg bg (Bool.eq_false_of_not_eq_true hd)]
    rfl

theorem planEvents_drawString (cfg : Config) (x y fg bg : Half) (k : Nat) (text : List Byte) :
    planEvents (drawStringPlan cfg y fg bg (x.toNat + 6 * k) text) =
      (text.zipIdx k).flatMap (charAtSent cfg x y fg bg) := by
  induction text generalizing k with
  | nil => rfl
  | cons code text ih =>
    rw [drawStringPlan]
    split
    · next hmargin => exact (charAtSent_pastMargin hmargin _).symm
    · next hmargin =>
      rw [planEvents_append, planEvents_drawChar_at (Nat.le_of_not_lt hmargin), List.zipIdx_cons, List.flatMap_cons,
        ← ih (k + 1)]
      rfl

theorem planEvents_eq_nil {p : List Action} (h : planEvents p = []) : p = [] := by
  cases p with
  | nil => rfl
  | cons a p => cases a <;> cases h

/-- Settles O31: the plan is that of each character in turn, six columns on from the one before, up to the margin. -/
theorem drawstrSendsItsVisibleCharacters : Obligations.DrawstrSendsItsVisibleCharacters := by
  intro x y fg bg text s evs hs hevs hr
  have hplan : planEvents (drawStringPlan s.cfg y fg bg x.toNat text) = evs :=
    (planEvents_drawString s.cfg x y fg bg 0 text).trans hevs.symm
  have hcount : planTransfers (drawStringPlan s.cfg y fg bg x.toNat text) = transportWrites evs := by
    rw [← transportWrites_planEvents, hplan]
  have hdata : EndsAtData evs := hevs ▸ .flatMap fun p _ => endsAtData_charAtSent s.cfg x y fg bg p
  obtain ⟨t, ht, hd⟩ := exec_drawn (.drawstr x y fg bg text) hs (by rwa [hcount])
  refine ⟨t, ht, hplan ▸ hd.trace, hd.result, hd.state, hd.cp, hcount ▸ hd.txCount, ?_, fun hnone => ?_, hd.frame⟩
  · rw [hd.lines, (Sends.drawString _ _ _ _ _ _).afterPlan_lines, hplan, hdata.dcAfter]
  · rw [hd.panel, planEvents_eq_nil (hplan.trans hnone)]
    rfl

end Sys2Proof.Machine
end

section
/-! One entry of `INIT_TABLE` on the panel interface (R61): its events, its transfers, the line it leaves and what the
controller makes of it (R39, R40). -/

namespace Sys2Proof.Machine

@[simp] theorem planEvents_initStep (st : InitStep) : planEvents (initStepPlan st) = initStepSent st := by
  rw [initStepPlan, planEvents_append, planEvents_append, planEvents_sendCmd, initStepSent]
  congr 1
  · congr 1
    split
    · rfl
    · exact planEvents_sendData _
  · split <;> rfl

@[simp] theorem planTransfers_initStep (st : InitStep) : planTransfers (initStepPlan st) = initStepTransfers st := by
  have hdelay : planTransfers (if st.delay = 0 then [] else [.delay st.delay]) = 0 := by split <;> rfl
  rw [initStepPlan, planTransfers_append, planTransfers_append, hdelay, planTransfers_sendCmd, initStepTransfers]
  split <;> rfl

/-- R30, R31: an entry leaves DC at data if it has a payload. -/
theorem dcAfter_initStep (dc : DcState) (st : InitStep) :
    dcAfter dc (initStepSent st) = if st.payload = [] then .command else .data := by
  have hdelay : ∀ dc, dcAfter dc (if st.delay = 0 then [] else [.delay st.delay]) = dc := by
    intro dc
    split <;> rfl
  rw [initStepSent, dcAfter_append, dcAfter_append, hdelay]
  split <;> rfl

/-- R40: the controller gets the command byte, and the payload if there is one; a wait does not reach it. -/
theorem afterPlan_initStep_panel (st : InitStep) (s : State) :
    (s.afterPlan (initStepPlan st)).panel =
      if st.payload = [] then s.panel.startCommand (cmdByte st.cmd)
      else (s.panel.startCommand (cmdByte st.cmd)).receiveData s.cfg st.payload := by
  have hdelay : ∀ u : State, (u.afterPlan (if st.delay = 0 then [] else [.delay st.delay])).panel = u.panel := by
    intro u
    split <;> rfl
  rw [initStepPlan, State.afterPlan_append, State.afterPlan_append, hdelay]
  split
  · rfl
  · rw [afterPlan_sendData_panel, afterPlan_sendCmd_panel, State.afterPlan_cfg]

/-- R57: no init command is a command of `DoSetWindow`. -/
theorem initCmds_ne_windowCmds : ∀ c ∈ Config.initCmds,
    c ≠ .ramwr ∧ cmdByte c ≠ cmdByte .caset ∧ cmdByte c ≠ cmdByte .raset := by
  decide

/-- The payload of an init command is data the model does not follow (R40; log entry 9). -/
theorem initPayload_scrambles {c : PanelCmd} (hc : c ∈ Config.initCmds) (hswreset : c ≠ .swreset) (cfg : Config)
    {bs : List Byte} (hbs : bs ≠ []) (p : Panel) :
    (Panel.receiveData cfg bs (p.startCommand (cmdByte c))).gram = [] := by
  obtain ⟨hramwr, hcaset, hraset⟩ := initCmds_ne_windowCmds c hc
  rw [Panel.startCommand_param hramwr hswreset,
    Panel.receiveData_unprimed cfg hbs (.inr ⟨_, _, rfl, hcaset, hraset⟩), Panel.scramble_gram]

/-- R39: the software reset leaves no cell with a value. -/
theorem startCommand_swreset (p : Panel) : p.startCommand (cmdByte .swreset) = p.scramble := rfl

/-- Where the memory has no value, an entry whose command is an init command gives it none. -/
theorem afterPlan_initStep_gram {st : InitStep} (hcmd : st.cmd ∈ Config.initCmds)
    (hreset : st.cmd = .swreset → st.payload = []) {s : State} (hs : s.panel.gram = []) :
    (s.afterPlan (initStepPlan st)).panel.gram = [] := by
  rw [afterPlan_initStep_panel]
  by_cases hswreset : st.cmd = .swreset
  · rw [if_pos (hreset hswreset), hswreset, startCommand_swreset, Panel.scramble_gram]
  · split
    · rw [Panel.startCommand_param (initCmds_ne_windowCmds _ hcmd).1 hswreset]
      exact hs
    · next hpayload => exact initPayload_scrambles hcmd hswreset _ hpayload _

/-- And so do the table's entries one after another. -/
theorem afterPlan_initSteps_gram {table : List InitStep} (hcmds : ∀ st ∈ table, st.cmd ∈ Config.initCmds)
    (hreset : ∀ st ∈ table, st.cmd = .swreset → st.payload = []) {s : State} (hs : s.panel.gram = []) :
    (s.afterPlan (table.flatMap initStepPlan)).panel.gram = [] := by
  induction table generalizing s with
  | nil => exact hs
  | cons st table ih =>
    rw [List.flatMap_cons, State.afterPlan_append]
    exact ih (fun u hu => hcmds u (List.mem_cons_of_mem st hu)) (fun u hu => hreset u (List.mem_cons_of_mem st hu))
      (afterPlan_initStep_gram (hcmds st List.mem_cons_self) (hreset st List.mem_cons_self) hs)

end Sys2Proof.Machine
end

section
/-! The statements of 40_init.md settled here. -/

namespace Sys2Proof.Machine

theorem planEvents_init (table : List InitStep) : planEvents (initPlan table) =
    [.line (.rst .asserted), .delay 10, .line (.rst .released), .delay 120, .line (.cs .selected)] ++
      table.flatMap initStepSent := by
  rw [initPlan, planEvents_append, planEvents_flatMap]
  simp only [planEvents_initStep]
  rfl

theorem planTransfers_init (table : List InitStep) :
    planTransfers (initPlan table) = (table.map initStepTransfers).sum := by
  rw [initPlan, planTransfers_append, planTransfers_flatMap]
  simp only [planTransfers_initStep]
  exact Nat.zero_add _

/-- The table's entries drive DC only (R61). -/
theorem sends_initSteps (table : List InitStep) : Sends (table.map InitStep.cmd) (table.flatMap initStepPlan) :=
  .flatMap fun _ hst => .initStep (List.mem_map_of_mem hst)

/-- The reset pulse releases RST and selects the controller; then the table's entries set DC. -/
theorem afterPlan_init_lines (table : List InitStep) (s : State) :
    (s.afterPlan (initPlan table)).lines =
      { rst := .released, dc := dcAfter s.lines.dc (table.flatMap initStepSent), cs := .selected } := by
  rw [initPlan, State.afterPlan_append, (sends_initSteps table).afterPlan_lines, planEvents_flatMap]
  simp only [planEvents_initStep]
  rfl

/-- The last entry leaves DC as its own transfers do. -/
theorem dcAfter_initSteps {table : List InitStep} {st : InitStep} (h : table.getLast? = some st) (dc : DcState) :
    dcAfter dc (table.flatMap initStepSent) = if st.payload = [] then .command else .data := by
  obtain ⟨before, rfl⟩ := List.getLast?_eq_some_iff.1 h
  rw [List.flatMap_append, dcAfter_append, List.flatMap_singleton, dcAfter_initStep]

/-- `INIT` from `UNINIT` with every transfer answered `OK` (R61). -/
theorem exec_init_runs {s : State} (hs : s.state = .uninit)
    (hr : s.repliesOk (s.cfg.initTable.map initStepTransfers).sum) :
    exec .init s = .next
      { State.afterPlan (initPlan s.cfg.initTable) { s with result := .ok, state := .initializing } with
        state := .ready, cp := s.cp + 1 } := by
  have hperform : perform (initPlan s.cfg.initTable) { s with result := .ok, state := .initializing } =
      .ok (State.afterPlan (initPlan s.cfg.initTable) { s with result := .ok, state := .initializing }) :=
    perform_of_repliesOk (by rwa [planTransfers_init])
  have hrule : doInit { s with result := .ok } =
      .ok { State.afterPlan (initPlan s.cfg.initTable) { s with result := .ok, state := .initializing } with
        state := .ready } := by
    rw [doInit_uninit (s := { s with result := .ok }) hs]
    dsimp only
    rw [hperform, Run.ok_andThen]
  refine congrArg Host.Outcome.next ((hostCommand_of_ok hrule).trans ?_)
  simp only [State.afterPlan_cp]
  rfl

/-- Settles O17: the plan is the reset pulse, which asserts RST and so leaves the controller's memory without a value,
and then the table's entries, none of which gives it one. -/
theorem initRunsTheTable : Obligations.InitRunsTheTable := by
  intro s hs hr
  obtain ⟨hframe, -, hresult, -⟩ :=
    State.afterPlan_frame (initPlan s.cfg.initTable) { s with result := .ok, state := .initializing }
  have hlines := afterPlan_init_lines s.cfg.initTable { s with result := .ok, state := .initializing }
  refine ⟨_, exec_init_runs hs hr, ?_, rfl, hresult, rfl, congrArg Lines.rst hlines, congrArg Lines.cs hlines,
    fun st hst => (congrArg Lines.dc hlines).trans (dcAfter_initSteps hst _), ?_,
    ⟨hframe.stopped, hframe.ncols, hframe.cols, hframe.stream, hframe.drawCount, hframe.env, hframe.cfg⟩,
    fun hcfg hreset a => ?_⟩
  · refine (State.afterPlan_trace (initPlan s.cfg.initTable) _).trans ?_
    rw [planEvents_init, ← List.append_assoc]
    rfl
  · exact (State.afterPlan_txCount (initPlan s.cfg.initTable) _).trans (congrArg (s.txCount + ·) (planTransfers_init _))
  · have hpulse : (State.afterPlan resetPulsePlan { s with result := .ok, state := .initializing }).panel.gram = [] := rfl
    have hgram := afterPlan_initSteps_gram (legal_initCmds hcfg) hreset hpulse
    rw [← State.afterPlan_append] at hgram
    exact congrArg (Gram.read · a) hgram

/-- The default table's payload-free last entry, its transfers, events and waits (R58). -/
theorem defaultInitTable_counts (m : Byte) (cfg : Config) :
    ((defaultInitTable m).map initStepTransfers).sum = 29 ∧
    transportWrites ((defaultInitTable m).flatMap initStepSent) = 29 ∧
    ((defaultInitTable m).flatMap initStepSent).length = 61 ∧
    minWait cfg ((defaultInitTable m).flatMap initStepSent) = 505 * cfg.timeUnit := by
  refine ⟨rfl, rfl, rfl, ?_⟩
  simp [defaultInitTable, initStepSent, cmdSent, dataSent, minWait]
  omega

/-- Settles O18: the trace of `INIT`, counted for the default table. -/
theorem initDefaultTableCounts : Obligations.InitDefaultTableCounts := by
  intro s m hs htable hr
  obtain ⟨htransfers, hwrites, hlength, hwait⟩ := defaultInitTable_counts m s.cfg
  obtain ⟨t, ht, htrace, hstate, -, -, hrst, hcs, hdc, -⟩ := initRunsTheTable s hs (by rwa [htable, htransfers])
  rw [htable, List.append_assoc] at htrace
  rw [htable] at hdc
  refine ⟨t, _, ht, htrace, ?_, ?_, ?_, ?_, hstate⟩
  · rw [transportWrites_append, hwrites]
    rfl
  · rw [List.length_append, hlength]
    rfl
  · simp only [List.cons_append, List.nil_append, minWait, hwait]
    ring
  · have hdc' : t.lines.dc = .command := hdc _ rfl
    rw [← hrst, ← hcs, ← hdc']

end Sys2Proof.Machine
end

section
/-! The statements on the controller commands (R57) settled here. -/

namespace Sys2Proof.Machine

/-- A controller command whose transfers are all answered `OK` performs its whole plan. -/
theorem settle_perform_of_repliesOk {plan : List Action} {s : State} (hr : s.repliesOk (planTransfers plan)) :
    settle (perform plan s) = s.afterPlan plan := by
  rw [perform_of_repliesOk hr, settle_ok]

/-- Settles O42: the plan is that of the command's entry; an init command's byte waits for data the model does not
follow, and the software reset leaves nothing fixed. -/
theorem initCommandsSendTheirTableEntry : Obligations.InitCommandsSendTheirTableEntry := by
  intro i c s st hi hentry hr
  have hst : initEntry s.cfg.initTable c = st := by rw [initEntry, hentry, Option.getD_some]
  have hcmd : st.cmd = c := by simpa using List.find?_some hentry
  have hinstrs : ∀ p ∈ initInstrs, p.2 ∈ Config.initCmds := by decide
  have hmem : c ∈ Config.initCmds := hinstrs (i, c) hi
  have hexec := meaning_initInstr (i := i) (c := c) hi s
  rw [hst, settle_perform_of_repliesOk (by rwa [planTransfers_initStep])] at hexec
  obtain ⟨hframe, hstate, hresult, hcp⟩ := State.afterPlan_frame (initStepPlan st) s
  have hpanel := afterPlan_initStep_panel st s
  rw [hcmd] at hpanel
  refine ⟨_, hexec, ?_, ?_, hstate, hresult, hcp, ?_, hframe, fun hnone hc => ?_, fun hiff => ?_⟩
  · rw [State.afterPlan_trace, planEvents_initStep, initStepSent, hcmd]
    simp only [List.append_assoc]
  · rw [State.afterPlan_txCount, planTransfers_initStep]
  · rw [(Sends.initStep (List.mem_singleton.2 rfl)).afterPlan_lines, planEvents_initStep, dcAfter_initStep]
  · rw [hpanel, if_pos hnone, Panel.startCommand_param (initCmds_ne_windowCmds c hmem).1 hc]
  · by_cases hc : c = .swreset
    · rw [hpanel, if_pos (hiff.2 hc), hc, startCommand_swreset, Panel.scramble_gram]
    · have hpayload : st.payload ≠ [] := fun h => hc (hiff.1 h)
      rw [hpanel, if_neg hpayload]
      exact initPayload_scrambles hmem hc _ hpayload _

/-- Settles O43: the plans of the three commands, and the controller's reaction to each. -/
theorem windowCommandsReachTheController : Obligations.WindowCommandsReachTheController := by
  refine ⟨fun first last s hr => ?_, fun first last s hr => ?_, fun s hr => ?_⟩
  · have hexec : exec (.caset first last) s = .next (s.afterPlan (casetPlan first last)) :=
      congrArg Host.Outcome.next (settle_perform_of_repliesOk hr)
    obtain ⟨hframe, hstate, hresult, hcp⟩ := State.afterPlan_frame (casetPlan first last) s
    refine ⟨_, hexec, ?_, afterPlan_caset_panel first last s, hstate, hresult, hcp, rfl, rfl, hframe⟩
    rw [List.append_assoc]
    exact State.afterPlan_trace _ _
  · have hexec : exec (.raset first last) s = .next (s.afterPlan (rasetPlan first last)) :=
      congrArg Host.Outcome.next (settle_perform_of_repliesOk hr)
    obtain ⟨hframe, hstate, hresult, hcp⟩ := State.afterPlan_frame (rasetPlan first last) s
    refine ⟨_, hexec, ?_, afterPlan_raset_panel first last s, hstate, hresult, hcp, rfl, rfl, hframe⟩
    rw [List.append_assoc]
    exact State.afterPlan_trace _ _
  · have hexec : exec .ramwr s = .next (s.afterPlan (sendCmd .ramwr)) :=
      congrArg Host.Outcome.next (settle_perform_of_repliesOk hr)
    obtain ⟨hframe, hstate, hresult, hcp⟩ := State.afterPlan_frame (sendCmd .ramwr) s
    refine ⟨_, hexec, State.afterPlan_trace _ _, congrArg Panel.regs (afterPlan_ramwr_panel s), fun hlegal => ?_, hstate,
      hresult, hcp, rfl, rfl, hframe⟩
    rw [afterPlan_ramwr_panel]
    exact if_pos hlegal

end Sys2Proof.Machine
end

section
/-! `COLINIT` (R79): the four draws of each column, from the numbers of the random source's offers. -/

namespace Sys2Proof.Machine

/-- The column its four draws give, the first of them draw number `d`. -/
def drawnColumn (s : State) (d : Nat) : Column where
  head := BitVec.ofNat 16 (pick (rangeList 0 19) (s.offerAt d))
  tail := BitVec.ofNat 8 (pick (rangeList 4 13) (s.offerAt (d + 1)))
  speed := BitVec.ofNat 8 (pick (rangeList 1 3) (s.offerAt (d + 2)))
  fc := BitVec.ofNat 16 (pick (rangeList 0 9) (s.offerAt (d + 3)))

/-- The events of the four draws. -/
def drawnEvents (s : State) (d : Nat) : List Event :=
  [.draw (rangeList 0 19) (pick (rangeList 0 19) (s.offerAt d)),
   .draw (rangeList 4 13) (pick (rangeList 4 13) (s.offerAt (d + 1))),
   .draw (rangeList 1 3) (pick (rangeList 1 3) (s.offerAt (d + 2))),
   .draw (rangeList 0 9) (pick (rangeList 0 9) (s.offerAt (d + 3)))]

theorem pick_rangeList {a b : Nat} (h : a ≤ b) (offer : Nat) :
    a ≤ pick (rangeList a b) offer ∧ pick (rangeList a b) offer ≤ b :=
  mem_rangeList.1 (pick_mem (rangeList_ne_nil h) offer)

/-- R85: a drawn column is legal, and its head is on the grid. -/
theorem drawnColumn_legal (s : State) (d : Nat) : columnLegal (drawnColumn s d) ∧ (drawnColumn s d).head.toInt ≤ 19 := by
  have hhead := pick_rangeList (a := 0) (b := 19) (by omega) (s.offerAt d)
  have hfc := pick_rangeList (a := 0) (b := 9) (by omega) (s.offerAt (d + 3))
  refine ⟨columnLegal_ofNat (by omega) (pick_rangeList (by omega) _) (pick_rangeList (by omega) _) ?_, ?_⟩
  · rw [half_toInt_ofNat] <;> omega
  · rw [drawnColumn, half_toInt_ofNat] <;> omega

/-- What a draw and a write of a column leave alone: everything but the columns, the trace and the draw count. -/
structure DrawFrame (s t : State) : Prop where
  state   : t.state = s.state
  result  : t.result = s.result
  stopped : t.stopped = s.stopped
  lines   : t.lines = s.lines
  cp      : t.cp = s.cp
  stream  : t.stream = s.stream
  txCount : t.txCount = s.txCount
  panel   : t.panel = s.panel
  env     : t.env = s.env
  cfg     : t.cfg = s.cfg

theorem DrawFrame.trans {s t u : State} (h : DrawFrame s t) (k : DrawFrame t u) : DrawFrame s u :=
  ⟨k.state.trans h.state, k.result.trans h.result, k.stopped.trans h.stopped, k.lines.trans h.lines, k.cp.trans h.cp,
    k.stream.trans h.stream, k.txCount.trans h.txCount, k.panel.trans h.panel, k.env.trans h.env, k.cfg.trans h.cfg⟩

theorem drawnColumn_congr {s t : State} (h : t.env = s.env) (d : Nat) : drawnColumn t d = drawnColumn s d := by
  simp only [drawnColumn, State.offerAt_congr h]

theorem drawnEvents_congr {s t : State} (h : t.env = s.env) (d : Nat) : drawnEvents t d = drawnEvents s d := by
  simp only [drawnEvents, State.offerAt_congr h]

/-- One column drawn. -/
theorem initColumn_draws (c : Fin 21) (s : State) :
    ∃ t, initColumn c s = .ok t ∧ t.col c = drawnColumn s s.drawCount ∧ (∀ b, b ≠ c → t.col b = s.col b) ∧
      t.drawCount = s.drawCount + 4 ∧ t.trace = s.trace ++ drawnEvents s s.drawCount ∧ DrawFrame s t := by
  refine ⟨_, rfl, State.col_setCol_same _ _ _, fun b hb => State.col_setCol_other _ _ hb, rfl, ?_,
    ⟨rfl, rfl, rfl, rfl, rfl, rfl, rfl, rfl, rfl, rfl⟩⟩
  simp [State.trace, drawnEvents]
  exact ⟨⟨rfl, rfl⟩, ⟨rfl, rfl⟩, ⟨rfl, rfl⟩, rfl, rfl⟩

/-- Columns `k` to `k + m - 1` drawn in index order, the draws numbered from `d` on at column 0. -/
theorem forEach_initColumn_draws {l : List (Fin 21)} {k m d : Nat} {s : State} (hl : l.map Fin.val = List.range' k m)
    (hd : s.drawCount = d + 4 * k) :
    ∃ t, forEach initColumn l s = .ok t ∧ t.drawCount = d + 4 * (k + m) ∧
      (∀ c : Fin 21, k ≤ c.val → c.val < k + m → t.col c = drawnColumn s (d + 4 * c.val)) ∧
      (∀ c : Fin 21, c.val < k ∨ k + m ≤ c.val → t.col c = s.col c) ∧
      t.trace = s.trace ++ (List.range' k m).flatMap (fun j => drawnEvents s (d + 4 * j)) ∧ DrawFrame s t := by
  induction m generalizing l k s with
  | zero =>
    obtain rfl : l = [] := List.map_eq_nil_iff.1 hl
    exact ⟨s, rfl, hd, fun c h1 h2 => absurd h2 (by omega), fun _ _ => rfl, (List.append_nil _).symm,
      ⟨rfl, rfl, rfl, rfl, rfl, rfl, rfl, rfl, rfl, rfl⟩⟩
  | succ m ih =>
    rw [List.range'_succ] at hl ⊢
    obtain ⟨b, rest, rfl, hb, hrest⟩ := List.map_eq_cons_iff.1 hl
    obtain ⟨u, hu, hcol, hother, hcount, htrace, hframe⟩ := initColumn_draws b s
    obtain ⟨t, ht, hcount', hdrawn, hkept, htrace', hframe'⟩ := ih hrest (s := u) (by omega)
    refine ⟨t, ?_, by omega, fun c h1 h2 => ?_, fun c hc => ?_, ?_, hframe.trans hframe'⟩
    · rw [forEach_cons, hu]
      exact ht
    · by_cases hcb : c = b
      · rw [hcb, hkept b (.inl (by omega)), hcol, hd, hb]
      · have hne : c.val ≠ b.val := fun h => hcb (Fin.ext h)
        rw [hdrawn c (by omega) (by omega), drawnColumn_congr hframe.env]
    · have hne : c ≠ b := fun h => by
        rw [h] at hc
        omega
      rw [hkept c (by omega), hother c hne]
    · rw [htrace', htrace, hd, List.flatMap_cons, ← List.append_assoc]
      simp only [drawnEvents_congr hframe.env]

/-- R79: the first `n` columns in index order. -/
theorem firstCols_val {n : Byte} (h : n.toNat ≤ 21) : (firstCols n).map Fin.val = List.range' 0 n.toNat := by
  have hall : ∀ m < 22, ((List.finRange 21).filter fun i => decide (i.val < m)).map Fin.val = List.range' 0 m := by
    decide
  exact hall n.toNat (by omega)

/-- Settles O34: the loop visits the first `n` columns in index order, and each round makes its four draws. -/
theorem colinitDrawsTheColumns : Obligations.ColinitDrawsTheColumns := by
  intro n s hn
  obtain ⟨t, ht, hcount, hdrawn, hkept, htrace, hframe⟩ :=
    forEach_initColumn_draws (firstCols_val hn) (s := { s with result := .ok }) (d := s.drawCount) rfl
  have hrule : doColinit n { s with result := .ok } = .ok { t with ncols := n } := by
    rw [doColinit_inRange hn, ht, Run.ok_andThen]
  refine ⟨_, congrArg Host.Outcome.next (hostCommand_of_ok hrule), hframe.result, rfl,
    congrArg (· + 2) hframe.cp, by simpa using hcount, fun c hc => ?_, fun c hc => hkept c (.inr (by omega)), ?_,
    hframe.state, hframe.stopped, hframe.lines, hframe.stream, hframe.panel, hframe.txCount, hframe.env, hframe.cfg⟩
  · have hcol := hdrawn c (Nat.zero_le _) (by omega)
    have hlegal := drawnColumn_legal { s with result := .ok } (s.drawCount + 4 * c.val)
    exact ⟨hcol, hcol ▸ hlegal.1, hcol ▸ hlegal.2⟩
  · rw [List.range_eq_range']
    exact htrace

end Sys2Proof.Machine
end

section
/-! What a rule costs: with enough transfers answered `OK` it runs to its end (R29, R90). -/

namespace Sys2Proof.Machine

/-- `t` is at most `n` transfers on from `s`. -/
structure Within (n : Nat) (s t : State) : Prop where
  env : t.env = s.env
  le  : s.txCount ≤ t.txCount
  cap : t.txCount ≤ s.txCount + n

/-- With `n` transfers answered `OK` the rule begun in `s` runs to its end, and makes no more. -/
def Costs (n : Nat) (s : State) (r : Run) : Prop := s.repliesOk n → ∃ t, r = .ok t ∧ Within n s t

theorem Costs.mono {m n : Nat} {s : State} {r : Run} (hmn : m ≤ n) (h : Costs m s r) : Costs n s r := by
  intro hr
  obtain ⟨t, ht, hw⟩ := h (State.repliesOk_mono hmn hr)
  exact ⟨t, ht, hw.env, hw.le, hw.cap.trans (by omega)⟩

/-- A rule that makes no transfer. -/
theorem Costs.free {s t : State} (he : t.env = s.env) (hc : t.txCount = s.txCount) : Costs 0 s (.ok t) :=
  fun _ => ⟨t, rfl, he, hc.ge, hc.le⟩

/-- The answers to come depend on `env` and on the number of transfers made. -/
theorem Costs.congr {n : Nat} {s t : State} {r : Run} (he : t.env = s.env) (hc : t.txCount = s.txCount)
    (h : Costs n t r) : Costs n s r := by
  intro hr
  obtain ⟨u, hu, hw⟩ := h ((State.repliesOk_congr he hc n).2 hr)
  exact ⟨u, hu, hw.env.trans he, hc ▸ hw.le, hc ▸ hw.cap⟩

theorem Costs.andThen {m n : Nat} {s : State} {r : Run} {f : State → Run} (h : Costs m s r)
    (hf : ∀ t, r = .ok t → Costs n t (f t)) : Costs (m + n) s (r.andThen f) := by
  intro hr
  obtain ⟨t, rfl, hw⟩ := h (State.repliesOk_mono (Nat.le_add_right m n) hr)
  obtain ⟨u, hu, hw'⟩ := hf t rfl (repliesOk_after hw.env hw.le hw.cap hr)
  have hle := hw.le
  have hcap := hw.cap
  have hle' := hw'.le
  have hcap' := hw'.cap
  exact ⟨u, hu, hw'.env.trans hw.env, by omega, by omega⟩

theorem perform_costs (p : List Action) (s : State) : Costs (planTransfers p) s (perform p s) := by
  intro hr
  refine ⟨_, perform_of_repliesOk hr, State.afterPlan_env p s, ?_, ?_⟩ <;> rw [State.afterPlan_txCount]
  exact Nat.le_add_right _ _

theorem perform_eq_ok {p : List Action} {s t : State} (h : perform p s = .ok t) : t = s.afterPlan p := by
  rcases perform_cases p s with ⟨-, hp⟩ | ⟨q, bs, r, n, -, -, -, hp⟩ <;> rw [h] at hp <;> cases hp
  rfl

end Sys2Proof.Machine
end

section
/-! An advance whose transfers are answered `OK` (R81, R82): its cost, its trace, and the cells of the controller's
memory it leaves alone. -/

namespace Sys2Proof.Machine

/-! ## One cell -/

/-- The row at distance `i` from the head is on the grid (R81). -/
abbrev onGrid (k : Column) (i : Nat) : Bool := rowVisible (k.head - BitVec.ofNat 16 i)

/-- The plan of the cell at distance `i` from the head. -/
def cellPlan (c : Fin 21) (i : Nat) (s : State) : List Action :=
  drawCharPlan s.cfg (cellX c) (cellY ((s.col c).head - BitVec.ofNat 16 i))
    (BitVec.ofNat 8 (s.nextDraw (alphabetChoices s.cfg))) (rampColour s.cfg i) Config.BG

theorem paintCell_onGrid {c : Fin 21} {i : Nat} {s : State} (h : onGrid (s.col c) i = true) :
    paintCell c i s = perform (cellPlan c i s) (s.afterDraw (alphabetChoices s.cfg)) := if_pos h

theorem paintCell_offGrid {c : Fin 21} {i : Nat} {s : State} (h : onGrid (s.col c) i = false) :
    paintCell c i s = .ok s := if_neg (ne_true_of_eq_false h)

theorem paintCell_costs (c : Fin 21) (i : Nat) (s : State) :
    Costs (if onGrid (s.col c) i then 288 else 0) s (paintCell c i s) := by
  by_cases hv : onGrid (s.col c) i = true
  · rw [paintCell_onGrid hv, if_pos hv]
    have hplan := perform_costs (cellPlan c i s) (s.afterDraw (alphabetChoices s.cfg))
    exact .congr (t := s.afterDraw (alphabetChoices s.cfg)) rfl rfl (hplan.mono (cellPlan_transfers_le _ _ _ _ _ _))
  · rw [paintCell_offGrid (Bool.eq_false_of_not_eq_true hv), if_neg hv]
    exact .free rfl rfl

/-- The events of the cell at distance `i` from the head, its character draw number `d`. -/
def cellSent (s : State) (d : Nat) (c : Fin 21) (i : Nat) : List Event :=
  .draw (alphabetChoices s.cfg) (pick (alphabetChoices s.cfg) (s.offerAt d)) ::
    charSent s.cfg (cellX c) (cellY ((s.col c).head - BitVec.ofNat 16 i))
      (BitVec.ofNat 8 (pick (alphabetChoices s.cfg) (s.offerAt d))) (rampColour s.cfg i) Config.BG

/-- R10: in an admitted configuration every draw from the alphabet is a code DRAWCHAR draws. -/
theorem validCode_pick {cfg : Config} (h : cfg.legal = true) (offer : Nat) :
    Config.validCode (BitVec.ofNat 8 (pick (alphabetChoices cfg) offer)) = true := by
  simp only [Config.legal, Bool.and_eq_true, decide_eq_true_eq, List.all_eq_true] at h
  obtain ⟨⟨⟨⟨-, hne⟩, hvalid⟩, -⟩, -⟩ := h
  obtain ⟨code, hcode, heq⟩ := List.mem_map.1 (pick_mem (l := alphabetChoices cfg) (by simpa [alphabetChoices] using hne) offer)
  rw [← heq, BitVec.ofNat_toNat, BitVec.setWidth_eq]
  exact hvalid code hcode

theorem paintCell_trace {c : Fin 21} {i : Nat} {s t : State} (hcfg : s.cfg.legal = true) (h : paintCell c i s = .ok t) :
    t.trace = s.trace ++ if onGrid (s.col c) i then cellSent s s.drawCount c i else [] := by
  by_cases hv : onGrid (s.col c) i = true
  · have hdrawn : charDrawn (cellX c) (cellY ((s.col c).head - BitVec.ofNat 16 i))
        (BitVec.ofNat 8 (s.nextDraw (alphabetChoices s.cfg))) = true := by
      have hcode := validCode_pick hcfg (s.offerAt s.drawCount)
      have hx := cellX_le c
      have hy := cellY_le hv
      simp only [Config.validCode, Bool.and_eq_true, decide_eq_true_eq] at hcode
      exact charDrawn_iff.2 ⟨hcode, by omega, hy⟩
    rw [paintCell_onGrid hv] at h
    rw [perform_eq_ok h, State.afterPlan_trace, cellPlan, (drawCharPlan_drawn _ _ _ hdrawn).1, if_pos hv]
    simp [State.trace, cellSent, State.nextDraw]
  · rw [paintCell_offGrid (Bool.eq_false_of_not_eq_true hv)] at h
    cases h
    simp [hv]

/-! ## The tail -/

/-- The states agree on what a repaint of column `c` reads but the number of the draw. -/
structure SameTail (c : Fin 21) (s t : State) : Prop where
  head : (t.col c).head = (s.col c).head
  tail : (t.col c).tail = (s.col c).tail
  env  : t.env = s.env
  cfg  : t.cfg = s.cfg

theorem PaintFrame.sameTail {s t : State} (h : PaintFrame s t) (c : Fin 21) : SameTail c s t := by
  have hcol := State.col_congr h.cols c
  exact ⟨by rw [hcol], by rw [hcol], h.env, h.cfg⟩

theorem SameTail.cellSent {c : Fin 21} {s t : State} (h : SameTail c s t) (d i : Nat) :
    cellSent t d c i = cellSent s d c i := by
  simp only [Machine.cellSent, h.head, h.cfg, State.offerAt_congr h.env]

theorem paintCell_sameTail {c : Fin 21} {i : Nat} {s t : State} (h : paintCell c i s = .ok t) : SameTail c s t := by
  have hframe := paintCell_frame c i s
  rw [h] at hframe
  exact hframe.sameTail c

/-- The distances whose rows are on the grid, from `n - 1` down. -/
def paintedDistances (k : Column) (n : Nat) : List Nat := (List.range n).reverse.filter (onGrid k)

theorem paintedDistances_succ (k : Column) (n : Nat) :
    paintedDistances k (n + 1) = (if onGrid k n then [n] else []) ++ paintedDistances k n := by
  rw [paintedDistances, List.range_succ, List.reverse_append, List.filter_append]
  by_cases hv : onGrid k n = true <;> simp [hv, paintedDistances]

theorem SameTail.paintedDistances {c : Fin 21} {s t : State} (h : SameTail c s t) (n : Nat) :
    paintedDistances (t.col c) n = paintedDistances (s.col c) n :=
  List.filter_congr fun i _ => by rw [onGrid, h.head]

/-- R81: as many as the cells of the visible tail. -/
theorem paintedDistances_length (k : Column) : (paintedDistances k (k.tail.toNat + 1)).length = columnCells k := by
  rw [paintedDistances, List.filter_reverse, List.length_reverse]
  rfl

theorem paintTail_costs (c : Fin 21) (i : Nat) (s : State) :
    Costs (288 * (paintedDistances (s.col c) (i + 1)).length) s (paintTail c i s) := by
  have hcell : ∀ i, Costs (288 * (if onGrid (s.col c) i then [i] else []).length) s (paintCell c i s) := fun i =>
    (paintCell_costs c i s).mono (by split <;> simp)
  induction i generalizing s with
  | zero => exact (hcell 0).mono (by rw [paintedDistances_succ, List.length_append]; omega)
  | succ i ih =>
    rw [paintTail, paintedDistances_succ, List.length_append, Nat.mul_add]
    refine (hcell (i + 1)).andThen fun t ht => ?_
    rw [← (paintCell_sameTail ht).paintedDistances]
    exact ih t fun i => (paintCell_costs c i t).mono (by split <;> simp)

/-- The events of the cells at the distances `l`, in order, the characters' draws numbered from `d`. -/
def cellsSent (s : State) (d : Nat) (c : Fin 21) (l : List Nat) : List Event :=
  l.zipIdx.flatMap fun p => cellSent s (d + p.2) c p.1

theorem tailSent_eq (s : State) (d : Nat) (c : Fin 21) :
    tailSent s d c = cellsSent s d c (paintedDistances (s.col c) ((s.col c).tail.toNat + 1)) := by
  refine List.flatMap_congr fun p _ => ?_
  have hramp : rampColour s.cfg p.1 = if p.1 < s.cfg.ramp.length then s.cfg.ramp.getD p.1 0 else 0x0000 := by
    split
    · next hlt => rw [rampColour_of_lt hlt, List.getD_eq_getElem _ _ hlt]
    · next hge => exact rampColour_of_length_le (Nat.le_of_not_lt hge)
  rw [cellSent, hramp]
  rfl

theorem cellsSent_nil (s : State) (d : Nat) (c : Fin 21) : cellsSent s d c [] = [] := rfl

theorem cellsSent_cons (s : State) (d : Nat) (c : Fin 21) (i : Nat) (l : List Nat) :
    cellsSent s d c (i :: l) = cellSent s d c i ++ cellsSent s (d + 1) c l := by
  rw [cellsSent, List.zipIdx_cons, List.flatMap_cons, List.zipIdx_succ, List.flatMap_map, cellsSent]
  simp only [Nat.add_zero, Nat.add_assoc, Nat.add_comm 1]

theorem SameTail.cellsSent {c : Fin 21} {s t : State} (h : SameTail c s t) (d : Nat) (l : List Nat) :
    cellsSent t d c l = cellsSent s d c l := by
  simp only [Machine.cellsSent, h.cellSent]

theorem paintTail_trace {c : Fin 21} {i : Nat} {s t : State} (hcfg : s.cfg.legal = true) (h : paintTail c i s = .ok t) :
    t.trace = s.trace ++ cellsSent s s.drawCount c (paintedDistances (s.col c) (i + 1)) := by
  induction i generalizing s with
  | zero =>
    have hzero : paintedDistances (s.col c) 0 = [] := rfl
    rw [paintCell_trace hcfg h, paintedDistances_succ, hzero, List.append_nil]
    by_cases hv : onGrid (s.col c) 0 = true
    · rw [if_pos hv, if_pos hv, cellsSent_cons, cellsSent_nil, List.append_nil]
    · rw [if_neg hv, if_neg hv, cellsSent_nil]
  | succ i ih =>
    obtain ⟨u, hu, ht⟩ := Run.andThen_eq_ok.1 h
    have hsame := paintCell_sameTail hu
    rw [ih (hsame.cfg ▸ hcfg) ht, paintCell_trace hcfg hu, hsame.cellsSent, hsame.paintedDistances,
      paintCell_drawCount hu, paintedDistances_succ _ (i + 1), List.append_assoc]
    by_cases hv : onGrid (s.col c) (i + 1) = true
    · simp only [if_pos hv, List.singleton_append, cellsSent_cons]
    · simp only [if_neg hv, List.nil_append, Nat.add_zero]

/-! ## The whole advance -/

theorem advance_costs (c : Fin 21) (s : State) : Costs (288 * columnCells (s.col c)) s (advance c s) := by
  rw [← paintedDistances_length]
  refine Costs.andThen (n := 0) (paintTail_costs c _ s) fun t _ => ?_
  obtain ⟨-, -, -, -, -, -, -, hcount, -, henv, -⟩ := moveHead_frame c t
  exact .free henv hcount

/-- The events of the two draws of a respawn, or of none. -/
theorem moveHead_trace (c : Fin 21) (s : State) :
    (moveHead c s).trace = s.trace ++ if columnRespawns (s.col c) then
      [.draw (rangeList 4 13) (respawnTail s s.drawCount), .draw (rangeList 1 3) (respawnSpeed s s.drawCount)] else [] := by
  by_cases hr : columnRespawns (s.col c)
  · have hgone : tailGone { s.col c with head := (s.col c).head + 1 } = true := decide_eq_true hr
    simp only [moveHead, State.col_setCol_same, hgone, if_true, if_pos hr, respawn]
    simp [State.trace, State.afterDraw, State.setCol]
    exact ⟨⟨rfl, rfl⟩, rfl, rfl⟩
  · rw [moveHead_stays (not_lt.1 hr), if_neg hr, List.append_nil]
    rfl

theorem SameTail.advanceSent {c : Fin 21} {s t : State} (h : SameTail c s t) (d : Nat) :
    advanceSent t d c = advanceSent s d c := by
  have hcells : columnCells (t.col c) = columnCells (s.col c) := by simp only [columnCells, h.head, h.tail]
  have hrespawns : columnRespawns (t.col c) ↔ columnRespawns (s.col c) := by simp only [columnRespawns, h.head, h.tail]
  simp only [Machine.advanceSent, tailSent_eq, h.cellsSent, h.paintedDistances, h.tail, hcells, hrespawns,
    respawnTail_congr h.env, respawnSpeed_congr h.env]

theorem advance_trace {c : Fin 21} {s t : State} (hcfg : s.cfg.legal = true) (h : advance c s = .ok t) :
    t.trace = s.trace ++ advanceSent s s.drawCount c := by
  obtain ⟨u, hu, ht⟩ := Run.andThen_eq_ok.1 h
  cases ht
  have hframe : PaintFrame s u := by
    have hpaint := paintTail_frame c (s.col c).tail.toNat s
    rwa [hu] at hpaint
  have hcol := State.col_congr hframe.cols c
  have hcount : u.drawCount = s.drawCount + columnCells (s.col c) := paintTail_drawCount hu
  rw [moveHead_trace, paintTail_trace hcfg hu, hcol, hcount, respawnTail_congr hframe.env,
    respawnSpeed_congr hframe.env, List.append_assoc, ← tailSent_eq]
  rfl

/-! ## The transfers of a trace of cells -/

theorem transportWrites_flatMap {α : Type} (f : α → List Event) (l : List α) :
    transportWrites (l.flatMap f) = (l.map fun a => transportWrites (f a)).sum := by
  induction l with
  | nil => rfl
  | cons a l ih => rw [List.flatMap_cons, transportWrites_append, ih, List.map_cons, List.sum_cons]

theorem transportWrites_charSent (cfg : Config) (x y : Half) (code : Byte) (fg bg : Half) :
    transportWrites (charSent cfg x y code fg bg) = 288 := by
  have hpixel : ∀ x y c, transportWrites (pixelSent x y c) = 6 := fun _ _ _ => rfl
  simp [charSent, transportWrites_flatMap, hpixel]

theorem transportWrites_cellsSent (s : State) (d : Nat) (c : Fin 21) (l : List Nat) :
    transportWrites (cellsSent s d c l) = 288 * l.length := by
  induction l generalizing d with
  | nil => rfl
  | cons i l ih =>
    rw [cellsSent_cons, transportWrites_append, ih, List.length_cons]
    have hcell : transportWrites (cellSent s d c i) = 288 := transportWrites_charSent _ _ _ _ _ _
    omega

theorem transportWrites_advanceSent (s : State) (d : Nat) (c : Fin 21) :
    transportWrites (advanceSent s d c) = 288 * columnCells (s.col c) := by
  rw [advanceSent, transportWrites_append, tailSent_eq, transportWrites_cellsSent, paintedDistances_length]
  split <;> rfl

/-- A rule that ran to its end has made the transfers its events show. -/
theorem Delivered.txCount_of_trace {s t : State} {evs : List Event} (h : Delivered s (.ok t))
    (htrace : t.trace = s.trace ++ evs) : t.txCount = s.txCount + transportWrites evs := by
  obtain ⟨sent, hsent⟩ := h
  rw [hsent.txCount, List.append_cancel_left (hsent.trace.symm.trans htrace)]

/-- Settles O37: the rule paints the cells of the tail that are on the grid, each from its own draw, and the draws of
a respawn come after them. -/
theorem advanceRepaintsTheVisibleTail : Obligations.AdvanceRepaintsTheVisibleTail := by
  intro c s hcfg hr
  obtain ⟨t, ht, -⟩ := advance_costs c s hr
  have htrace := advance_trace hcfg ht
  have hdelivered := delivered_animation.advance c s
  rw [ht] at hdelivered
  refine ⟨t, ht, ?_, htrace⟩
  rw [hdelivered.txCount_of_trace htrace, transportWrites_advanceSent]

end Sys2Proof.Machine
end

section
/-! The rounds of a loop before the one looked at, and the round in which it stops. -/

namespace Sys2Proof.Machine

variable {α : Type} {body : α → State → Run}

/-- What each round of the loop over `l` carries one element further holds after every part of `l` from its start. -/
theorem forEach_carries {l : List α} {P : List α → State → Prop} {s : State}
    (hstep : ∀ before a after u t, l = before ++ a :: after → P before u → body a u = .ok t → P (before ++ [a]) t)
    (hs : P [] s) {part rest : List α} (hl : l = part ++ rest) {t : State} (h : forEach body part s = .ok t) :
    P part t := by
  induction part using List.reverseRecOn generalizing rest t with
  | nil => cases h; exact hs
  | append_singleton part a ih =>
    rw [List.append_assoc, List.singleton_append] at hl
    rw [forEach_append] at h
    obtain ⟨u, hu, ht⟩ := Run.andThen_eq_ok.1 h
    obtain ⟨t', ha, hnil⟩ := Run.andThen_eq_ok.1 ht
    cases hnil
    exact hstep part a rest u t hl (ih hl hu) ha

/-- A loop that raises an error has run its rounds before the one that raised it. -/
theorem forEach_raised {l : List α} {s t : State} {e : Error} (h : forEach body l s = .raised e t) :
    ∃ before a after u, l = before ++ a :: after ∧ forEach body before s = .ok u ∧ body a u = .raised e t := by
  induction l generalizing s with
  | nil => cases h
  | cons a l ih =>
    rw [forEach_cons] at h
    cases ha : body a s with
    | raised e' t' =>
      rw [ha] at h
      exact ⟨[], a, l, s, rfl, rfl, ha.trans h⟩
    | ok u =>
      rw [ha] at h
      obtain ⟨before, b, after, v, rfl, hbefore, hb⟩ := ih h
      exact ⟨a :: before, b, after, v, rfl, by rw [forEach_cons, ha]; exact hbefore, hb⟩

end Sys2Proof.Machine
end

section
/-! `DoTick`, column by column (R80 to R83): what holds once the columns of a part of the list have had their tick. -/

namespace Sys2Proof.Machine

/-- What the animation leaves alone, however it ends. -/
structure BlockKept (s : State) (r : Run) : Prop where
  stopped : r.state.stopped = s.stopped
  cp      : r.state.cp = s.cp
  ncols   : r.state.ncols = s.ncols
  stream  : r.state.stream = s.stream
  env     : r.state.env = s.env
  cfg     : r.state.cfg = s.cfg

theorem blockKept_animation : AnimationLaw BlockKept where
  done _ := ⟨rfl, rfl, rfl, rfl, rfl, rfl⟩
  trans h k := ⟨k.stopped.trans h.stopped, k.cp.trans h.cp, k.ncols.trans h.ncols, k.stream.trans h.stream,
    k.env.trans h.env, k.cfg.trans h.cfg⟩
  char x y code fg bg s := by
    obtain ⟨hframe, -, -, hcp⟩ := perform_frame (drawCharPlan s.cfg x y code fg bg) s
    exact ⟨hframe.stopped, hcp, hframe.ncols, hframe.stream, hframe.env, hframe.cfg⟩
  draw _ _ _ := ⟨rfl, rfl, rfl, rfl, rfl, rfl⟩
  setCol _ _ _ := ⟨rfl, rfl, rfl, rfl, rfl, rfl⟩

/-! ## One column's part -/

/-- The events of column `c` on a tick. -/
def columnSent (s : State) (c : Fin 21) : List Event :=
  if columnDue (s.col c) then advanceSent s (tickDrawStart s c) c else []

theorem tickSent_eq (s : State) : tickSent s = (firstCols s.ncols).flatMap (columnSent s) := rfl

theorem tickColumn_due {c : Fin 21} {s : State} (h : columnDue (s.col c)) :
    tickColumn c s = advance c (s.setCol c { s.col c with fc := zext16 (s.col c).speed }) := if_pos h

theorem tickColumn_notDue {c : Fin 21} {s : State} (h : ¬ columnDue (s.col c)) :
    tickColumn c s = .ok (s.setCol c { s.col c with fc := (s.col c).fc - 1 }) := if_neg h

/-- The reset of the counter is nothing to the repaint. -/
theorem sameTail_resetCounter (c : Fin 21) (s : State) (v : Half) :
    SameTail c s (s.setCol c { s.col c with fc := v }) := by
  have hcol := State.col_setCol_same s c { s.col c with fc := v }
  exact ⟨by rw [hcol], by rw [hcol], rfl, rfl⟩

theorem tickColumn_trace {c : Fin 21} {s t : State} (hcfg : s.cfg.legal = true) (h : tickColumn c s = .ok t) :
    t.trace = s.trace ++ if columnDue (s.col c) then advanceSent s s.drawCount c else [] := by
  by_cases hd : columnDue (s.col c)
  · rw [tickColumn_due hd] at h
    rw [advance_trace (s := s.setCol c { s.col c with fc := zext16 (s.col c).speed }) hcfg h, if_pos hd,
      (sameTail_resetCounter c s _).advanceSent]
    rfl
  · rw [tickColumn_notDue hd] at h
    cases h
    rw [if_neg hd, List.append_nil]
    rfl

/-- The cells a column paints on a tick. -/
def columnTickCells (k : Column) : Nat := if columnDue k then columnCells k else 0

theorem tickColumn_costs (c : Fin 21) (s : State) : Costs (288 * columnTickCells (s.col c)) s (tickColumn c s) := by
  by_cases hd : columnDue (s.col c)
  · have hadvance := advance_costs c (s.setCol c { s.col c with fc := zext16 (s.col c).speed })
    rw [State.col_setCol_same] at hadvance
    rw [tickColumn_due hd, columnTickCells, if_pos hd]
    exact .congr (t := s.setCol c { s.col c with fc := zext16 (s.col c).speed }) rfl rfl hadvance
  · rw [tickColumn_notDue hd, columnTickCells, if_neg hd]
    exact .free rfl rfl

/-! ## The columns before the one whose turn it is -/

/-- The columns of the list before column `c` are those below it. -/
theorem firstCols_filter_lt {n : Byte} {before after : List (Fin 21)} {c : Fin 21}
    (h : firstCols n = before ++ c :: after) : (firstCols n).filter (fun b => decide (b < c)) = before := by
  have hsorted : (firstCols n).Pairwise (· < ·) := (List.sortedLT_finRange 21).pairwise.filter _
  rw [h, List.pairwise_append, List.pairwise_cons] at hsorted
  obtain ⟨-, ⟨hafter, -⟩, hbefore⟩ := hsorted
  rw [h, List.filter_append, List.filter_eq_self.2 fun b hb => decide_eq_true (hbefore b hb c List.mem_cons_self),
    List.filter_eq_nil_iff.2, List.append_nil]
  intro b hb
  rcases List.mem_cons.1 hb with rfl | hb
  · simp
  · simpa using (hafter b hb).le

theorem not_mem_before {n : Byte} {before after : List (Fin 21)} {c : Fin 21} (h : firstCols n = before ++ c :: after) :
    c ∉ before := by
  rw [← firstCols_filter_lt h]
  simp

/-- The tick of `s` has come to `u`, the columns of `before` having had theirs. -/
structure TickedUpTo (s : State) (before : List (Fin 21)) (u : State) : Prop where
  env       : u.env = s.env
  cfg       : u.cfg = s.cfg
  drawCount : u.drawCount = s.drawCount + (before.map fun b => columnDraws (s.col b)).sum
  ticked    : ∀ b ∈ before, ColumnTicked s u b
  waiting   : ∀ b, b ∉ before → u.col b = s.col b
  trace     : s.cfg.legal = true → u.trace = s.trace ++ before.flatMap (columnSent s)

/-- The tick begins, `RESULT` being `OK` (R48). -/
theorem tickedUpTo_start (s : State) : TickedUpTo s [] { s with result := .ok } :=
  ⟨rfl, rfl, rfl, fun _ h => absurd h List.not_mem_nil, fun _ _ => rfl, fun _ => (List.append_nil _).symm⟩

theorem ColumnTicked.congr {s t u : State} {c : Fin 21} (h : ColumnTicked s u c) (hcol : t.col c = u.col c) :
    ColumnTicked s t c :=
  ⟨hcol ▸ h.waits, hcol ▸ h.moves, hcol ▸ h.respawns⟩

section Round

variable {s u t : State} {before after : List (Fin 21)} {c : Fin 21}

theorem TickedUpTo.drawStart (h : TickedUpTo s before u) (hl : firstCols s.ncols = before ++ c :: after) :
    tickDrawStart s c = u.drawCount := by
  rw [tickDrawStart, firstCols_filter_lt hl, h.drawCount]

theorem TickedUpTo.columnTicked (h : TickedUpTo s before u) (hl : firstCols s.ncols = before ++ c :: after)
    (ht : tickColumn c u = .ok t) : ColumnTicked s t c := by
  have hcol := h.waiting c (not_mem_before hl)
  obtain ⟨-, -, hwaits, hmoves, hrespawns⟩ := tickColumn_ok ht
  rw [hcol] at hwaits hmoves hrespawns
  refine ⟨hwaits, hmoves, fun hd hr => ?_⟩
  have hnew := hrespawns hd hr
  rw [respawnTail_congr h.env, respawnSpeed_congr h.env, ← h.drawStart hl] at hnew
  have htail := respawnTail_range s (tickDrawStart s c + columnCells (s.col c))
  have hspeed := respawnSpeed_range s (tickDrawStart s c + columnCells (s.col c))
  refine ⟨hnew, ?_⟩
  simp only [hnew, BitVec.toNat_ofNat]
  omega

theorem TickedUpTo.round (h : TickedUpTo s before u) (hl : firstCols s.ncols = before ++ c :: after)
    (ht : tickColumn c u = .ok t) : TickedUpTo s (before ++ [c]) t := by
  have hnot := not_mem_before hl
  have hcol := h.waiting c hnot
  have hkept := blockKept_animation.tickColumn c u
  rw [ht] at hkept
  obtain ⟨hcount, hother, -⟩ := tickColumn_ok ht
  refine ⟨hkept.env.trans h.env, hkept.cfg.trans h.cfg, ?_, fun b hb => ?_, fun b hb => ?_, fun hcfg => ?_⟩
  · rw [hcount, h.drawCount, hcol, List.map_append, List.sum_append, Nat.add_assoc]
    rfl
  · rcases List.mem_append.1 hb with hb | hb
    · exact (h.ticked b hb).congr (hother b fun hbc => hnot (hbc ▸ hb))
    · exact List.mem_singleton.1 hb ▸ h.columnTicked hl ht
  · obtain ⟨hbefore, hbc⟩ := not_or.1 (mt List.mem_append.2 hb)
    exact (hother b fun hbc' => hbc (List.mem_singleton.2 hbc')).trans (h.waiting b hbefore)
  · have hsame : SameTail c s u := ⟨by rw [hcol], by rw [hcol], h.env, h.cfg⟩
    rw [tickColumn_trace (h.cfg ▸ hcfg) ht, h.trace hcfg, hcol, hsame.advanceSent, ← h.drawStart hl,
      List.flatMap_append, List.flatMap_singleton, List.append_assoc]
    rfl

end Round

/-- The rounds of a part of the list, from its start. -/
theorem forEach_tickColumn_ticked {s t : State} {part rest : List (Fin 21)} (hl : firstCols s.ncols = part ++ rest)
    (h : forEach tickColumn part { s with result := .ok } = .ok t) : TickedUpTo s part t :=
  forEach_carries (fun _ _ _ _ _ hl hu ht => hu.round hl ht) (tickedUpTo_start s) hl h

/-! ## The whole tick -/

theorem forEach_tickColumn_costs {s : State} {l : List (Fin 21)} (hl : l.Nodup) {u : State}
    (hcols : ∀ c ∈ l, u.col c = s.col c) :
    Costs (288 * (l.map fun c => columnTickCells (s.col c)).sum) u (forEach tickColumn l u) := by
  induction l generalizing u with
  | nil => exact .free rfl rfl
  | cons c l ih =>
    obtain ⟨hc, hl⟩ := List.nodup_cons.1 hl
    rw [List.map_cons, List.sum_cons, Nat.mul_add, forEach_cons, ← hcols c List.mem_cons_self]
    refine (tickColumn_costs c u).andThen fun t ht => ih hl fun b hb => ?_
    obtain ⟨-, hother, -⟩ := tickColumn_ok ht
    exact (hother b fun hbc => hc (hbc ▸ hb)).trans (hcols b (List.mem_cons_of_mem c hb))

theorem doTick_costs (s : State) : Costs (288 * tickCells s) s (doTick s) :=
  forEach_tickColumn_costs (firstCols_nodup s.ncols) fun _ _ => rfl

/-- A tick in `READY` with every transfer answered `OK`: its rule has come to `t`, and `CP` moves on. -/
theorem exec_tick_of_repliesOk {s : State} (hs : s.state = .ready) (hr : s.repliesOk (288 * tickCells s)) :
    ∃ t, doTick { s with result := .ok } = .ok t ∧ exec .tick s = .next { t with cp := t.cp + 1 } ∧
      TickedUpTo s (firstCols s.ncols) t ∧ Within (288 * tickCells s) s t := by
  obtain ⟨t, ht, hwithin⟩ := doTick_costs { s with result := .ok } ((State.repliesOk_congr rfl rfl _).2 hr)
  have hrule : needReady doTick { s with result := .ok } = .ok t := (needReady_ready (s := { s with result := .ok }) hs).trans ht
  exact ⟨t, ht, congrArg Host.Outcome.next (hostCommand_of_ok hrule),
    forEach_tickColumn_ticked (List.append_nil _).symm ht, hwithin.env, hwithin.le, hwithin.cap⟩

/-! ## The data/command line -/

/-- A trace that leaves the line at data if it transfers anything, and alone if it does not (R31). -/
def DataIfSent (evs : List Event) : Prop := ∀ dc, dcAfter dc evs = if transportWrites evs = 0 then dc else .data

theorem DataIfSent.append {e f : List Event} (he : DataIfSent e) (hf : DataIfSent f) : DataIfSent (e ++ f) := by
  intro dc
  rw [dcAfter_append, hf, he, transportWrites_append]
  by_cases hzero : transportWrites f = 0
  · rw [if_pos hzero, hzero, Nat.add_zero]
  · rw [if_neg hzero, if_neg (by omega)]

theorem DataIfSent.flatMap {α : Type} {f : α → List Event} {l : List α} (h : ∀ a ∈ l, DataIfSent (f a)) :
    DataIfSent (l.flatMap f) := by
  induction l with
  | nil => exact fun _ => rfl
  | cons a l ih => exact (h a List.mem_cons_self).append (ih fun b hb => h b (List.mem_cons_of_mem a hb))

theorem dcAfter_draw (dc : DcState) (l : List Nat) (v : Nat) (evs : List Event) :
    dcAfter dc (.draw l v :: evs) = dcAfter dc evs := rfl

theorem dataIfSent_cellSent (s : State) (d : Nat) (c : Fin 21) (i : Nat) : DataIfSent (cellSent s d c i) := by
  intro dc
  have hsent : transportWrites (cellSent s d c i) = 288 := transportWrites_charSent _ _ _ _ _ _
  rw [hsent, if_neg (by omega), cellSent, dcAfter_draw, (endsAtData_charSent _ _ _ _ _ _).dcAfter,
    if_neg (charSent_ne_nil _ _ _ _ _ _)]

theorem dataIfSent_advanceSent (s : State) (d : Nat) (c : Fin 21) : DataIfSent (advanceSent s d c) := by
  rw [advanceSent, tailSent_eq]
  refine .append (.flatMap fun p _ => dataIfSent_cellSent s _ c p.1) fun dc => ?_
  split <;> rfl

theorem dataIfSent_tickSent (s : State) : DataIfSent (tickSent s) := by
  rw [tickSent_eq]
  refine .flatMap fun c _ => ?_
  unfold columnSent
  split
  · exact dataIfSent_advanceSent s _ c
  · exact fun _ => rfl

theorem transportWrites_tickSent (s : State) : transportWrites (tickSent s) = 288 * tickCells s := by
  have hcolumn : ∀ c, transportWrites (columnSent s c) = 288 * columnTickCells (s.col c) := by
    intro c
    unfold columnSent columnTickCells
    split
    · exact transportWrites_advanceSent s _ c
    · rfl
  rw [tickSent_eq, transportWrites_flatMap]
  simp only [hcolumn]
  exact List.sum_map_mul_left _ _ _

/-- Settles O35: the columns have their ticks one after the other, each from the draws the ones before it left, and
nothing else of the block is written. -/
theorem tickAdvancesExactlyTheDueColumns : Obligations.TickAdvancesExactlyTheDueColumns := by
  intro s hs hr
  obtain ⟨t, hrun, hexec, htick, -⟩ := exec_tick_of_repliesOk hs hr
  have hquiet := quiet_animation.doTick { s with result := .ok }
  have hkept := blockKept_animation.doTick { s with result := .ok }
  have hdelivered := delivered_animation.doTick { s with result := .ok }
  obtain ⟨evs, hemitted⟩ := emitsOnly_animation.doTick { s with result := .ok }
  rw [hrun] at hquiet hkept hdelivered hemitted
  refine ⟨_, hexec, hquiet.result, hquiet.state.trans hs, congrArg (· + 1) hkept.cp, hquiet.rst, hquiet.cs,
    htick.drawCount, fun hcfg => ?_, hkept.stopped, hkept.ncols, hkept.stream, hkept.env, hkept.cfg, fun c hc => ?_,
    fun c hc => (htick.ticked c (mem_firstCols.2 hc)).congr rfl⟩
  · have htrace : t.trace = s.trace ++ tickSent s := htick.trace hcfg
    obtain rfl : evs = tickSent s := List.append_cancel_left (hemitted.trace.symm.trans htrace)
    refine ⟨htrace, ?_, ?_⟩
    · rw [← transportWrites_tickSent]
      exact hdelivered.txCount_of_trace htrace
    · have hdc := hemitted.dc.trans (dataIfSent_tickSent s s.lines.dc)
      simpa [transportWrites_tickSent] using hdc
  · exact htick.waiting c fun hmem => absurd (mem_firstCols.1 hmem) (by omega)

/-- R83: a column's part of a tick that fails has reset its counter and written no other column. -/
theorem tickColumn_raised {c : Fin 21} {s t : State} {e : Error} (h : tickColumn c s = .raised e t) :
    columnDue (s.col c) ∧ t.col c = { s.col c with fc := zext16 (s.col c).speed } ∧ ∀ b, b ≠ c → t.col b = s.col b := by
  rcases tickColumn_cases c s with ⟨-, hc⟩ | ⟨-, u, -, -, hc⟩ | ⟨hd, u, hframe, hc⟩ <;> rw [h] at hc <;> cases hc
  refine ⟨hd, ?_, fun b hb => ?_⟩ <;> rw [State.col_congr hframe.cols]
  · exact State.col_setCol_same _ _ _
  · exact State.col_setCol_other _ _ hb

/-- A tick that fails, fails in the part of one column, those before it having had theirs. -/
theorem exec_tick_failed {s t : State} (hs : s.state = .ready) (hexec : exec .tick s = .next t)
    (herr : t.result = .errTransport) :
    ∃ before k after u v, firstCols s.ncols = before ++ k :: after ∧ TickedUpTo s before u ∧
      tickColumn k u = .raised .transportFail v ∧ ∀ c, t.col c = v.col c := by
  have hquiet := quiet_animation.doTick { s with result := .ok }
  have hready : needReady doTick { s with result := .ok } = doTick { s with result := .ok } := needReady_ready hs
  cases hrun : doTick { s with result := .ok } with
  | ok u =>
    cases (congrArg Host.Outcome.next (hostCommand_of_ok (hready.trans hrun))).symm.trans hexec
    rw [hrun] at hquiet
    cases herr.symm.trans hquiet.result
  | raised e v =>
    rw [hrun] at hquiet
    cases hquiet.raises
    cases (congrArg Host.Outcome.next (hostCommand_of_raised (hready.trans hrun))).symm.trans hexec
    obtain ⟨before, k, after, u, hl, hbefore, hk⟩ := forEach_raised hrun
    exact ⟨before, k, after, u, v, hl, forEach_tickColumn_ticked hl hbefore, hk, fun _ => rfl⟩

/-- Settles O39: the columns before the failing one are those below it in the list. -/
theorem tickFailureKeepsEarlierColumns : Obligations.TickFailureKeepsEarlierColumns := by
  intro s t hs hexec herr
  obtain ⟨before, k, after, u, v, hl, htick, hk, hcols⟩ := exec_tick_failed hs hexec herr
  obtain ⟨hdue, hsame, hother⟩ := tickColumn_raised hk
  have hactive : k.val < s.ncols.toNat := mem_firstCols.1 (hl ▸ by simp)
  have hbefore : ∀ c, c ∈ before ↔ c.val < s.ncols.toNat ∧ c < k := by
    intro c
    rw [← firstCols_filter_lt hl, List.mem_filter, mem_firstCols, decide_eq_true_iff]
  rw [htick.waiting k (not_mem_before hl)] at hdue hsame
  refine ⟨k, hactive, hdue, (hcols k).trans hsame, fun c hc => ?_, fun c hc => ?_⟩
  · have hnot : c ∉ before := fun hmem => lt_asymm hc ((hbefore c).1 hmem).2
    rw [hcols, hother c hc.ne', htick.waiting c hnot]
  · have hmem : c ∈ before := (hbefore c).2 ⟨Nat.lt_trans hc hactive, hc⟩
    exact (htick.ticked c hmem).congr ((hcols c).trans (hother c hc.ne))

/-! ## A tick on which nothing is due (R80) -/

/-- What a tick without a due column leaves alone. -/
structure TickSilent (s t : State) : Prop where
  log       : t.log = s.log
  lines     : t.lines = s.lines
  panel     : t.panel = s.panel
  txCount   : t.txCount = s.txCount
  drawCount : t.drawCount = s.drawCount
  heads     : ∀ c : Fin 21, (t.col c).head = (s.col c).head

theorem TickSilent.countDown {s t : State} (h : TickSilent s t) (c : Fin 21) (v : Half) :
    TickSilent s (t.setCol c { t.col c with fc := v }) := by
  refine ⟨h.log, h.lines, h.panel, h.txCount, h.drawCount, fun b => ?_⟩
  by_cases hb : b = c
  · rw [hb, State.col_setCol_same]
    exact h.heads c
  · rw [State.col_setCol_other _ _ hb]
    exact h.heads b

/-- Settles O36: every column only counts down. -/
theorem tickWithNoDueColumnIsSilent : Obligations.TickWithNoDueColumnIsSilent := by
  intro s hs hnone
  have hcells : tickCells s = 0 := by
    refine List.sum_eq_zero_iff_forall_eq_nat.2 fun n hn => ?_
    obtain ⟨c, hc, rfl⟩ := List.mem_map.1 hn
    exact if_neg (hnone c (mem_firstCols.1 hc))
  obtain ⟨t, hrun, hexec, -, -⟩ := exec_tick_of_repliesOk hs (hcells ▸ fun k hk => absurd hk (Nat.not_lt_zero k))
  have hkept := quiet_animation.doTick { s with result := .ok }
  rw [hrun] at hkept
  have hsilent : TickedUpTo s (firstCols s.ncols) t ∧ TickSilent s t := by
    refine forEach_carries (P := fun before u => TickedUpTo s before u ∧ TickSilent s u)
      (fun before c after u v hl hu hv => ⟨hu.1.round hl hv, ?_⟩)
      ⟨tickedUpTo_start s, rfl, rfl, rfl, rfl, rfl, fun _ => rfl⟩ (List.append_nil _).symm hrun
    obtain ⟨htick, hsilent⟩ := hu
    have hnotDue : ¬ columnDue (u.col c) := by
      rw [htick.waiting c (not_mem_before hl)]
      exact hnone c (mem_firstCols.1 (hl ▸ by simp))
    cases (tickColumn_notDue hnotDue).symm.trans hv
    exact hsilent.countDown c _
  obtain ⟨-, hlog, hlines, hpanel, htx, hdraw, hheads⟩ := hsilent
  exact ⟨_, hexec, congrArg List.reverse hlog, hlines, hpanel, htx, hdraw, hkept.result, hheads⟩

/-! ## The cells a tick leaves alone (R41, R77) -/

/-- The address is that of no cell of the controller's memory under the visible tail of a column. -/
def OutsideTail (cfg : Config) (c : Fin 21) (k : Column) (a : Nat) : Prop :=
  ∀ i dx dy : Nat, i ≤ k.tail.toNat → onGrid k i = true → dx < 6 → dy < 8 →
    a ≠ pixelAddr cfg (6 * c.val + dx) (8 * (k.head - BitVec.ofNat 16 i).toNat + dy)

theorem cellX_toNat (c : Fin 21) : (cellX c).toNat = 6 * c.val := by
  have := c.isLt
  exact Nat.mod_eq_of_lt (by simp only [Config.CELL_W]; omega)

theorem cellY_toNat {row : Half} (h : rowVisible row = true) : (cellY row).toNat = 8 * row.toNat := by
  have := rowVisible_toNat h
  exact Nat.mod_eq_of_lt (by simp only [Config.GLYPH_H]; omega)

section Keeps

variable {c : Fin 21} {a : Nat} {s t : State}

theorem paintCell_keeps {i : Nat} (hcfg : HoldsPanel s.cfg) (ha : OutsideTail s.cfg c (s.col c) a)
    (hi : i ≤ (s.col c).tail.toNat) (h : paintCell c i s = .ok t) :
    Gram.read t.panel.gram a = Gram.read s.panel.gram a := by
  by_cases hv : onGrid (s.col c) i = true
  · rw [paintCell_onGrid hv] at h
    rw [perform_eq_ok h]
    refine drawChar_keeps hcfg _ _ (s := s.afterDraw (alphabetChoices s.cfg)) rfl fun _ dx dy hdx hdy => ?_
    rw [cellX_toNat, cellY_toNat hv]
    exact ha i dx dy hi hv hdx hdy
  · rw [paintCell_offGrid (Bool.eq_false_of_not_eq_true hv)] at h
    cases h
    rfl

theorem paintTail_keeps {i : Nat} (hcfg : HoldsPanel s.cfg) (ha : OutsideTail s.cfg c (s.col c) a)
    (hi : i ≤ (s.col c).tail.toNat) (h : paintTail c i s = .ok t) :
    Gram.read t.panel.gram a = Gram.read s.panel.gram a := by
  induction i generalizing s with
  | zero => exact paintCell_keeps hcfg ha hi h
  | succ i ih =>
    obtain ⟨u, hu, ht⟩ := Run.andThen_eq_ok.1 h
    have hframe : PaintFrame s u := by
      have hpaint := paintCell_frame c (i + 1) s
      rwa [hu] at hpaint
    have hcol := State.col_congr hframe.cols c
    rw [← paintCell_keeps hcfg ha hi hu]
    exact ih (hframe.cfg ▸ hcfg) (by rw [hcol, hframe.cfg]; exact ha) (by rw [hcol]; omega) ht

theorem advance_keeps (hcfg : HoldsPanel s.cfg) (ha : OutsideTail s.cfg c (s.col c) a) (h : advance c s = .ok t) :
    Gram.read t.panel.gram a = Gram.read s.panel.gram a := by
  obtain ⟨u, hu, ht⟩ := Run.andThen_eq_ok.1 h
  cases ht
  obtain ⟨-, -, -, -, -, -, -, -, hpanel, -⟩ := moveHead_frame c u
  rw [hpanel]
  exact paintTail_keeps hcfg ha (Nat.le_refl _) hu

theorem tickColumn_keeps (hcfg : HoldsPanel s.cfg) (ha : columnDue (s.col c) → OutsideTail s.cfg c (s.col c) a)
    (h : tickColumn c s = .ok t) : Gram.read t.panel.gram a = Gram.read s.panel.gram a := by
  by_cases hd : columnDue (s.col c)
  · rw [tickColumn_due hd] at h
    refine advance_keeps (s := s.setCol c { s.col c with fc := zext16 (s.col c).speed }) hcfg ?_ h
    rw [State.col_setCol_same]
    exact ha hd
  · rw [tickColumn_notDue hd] at h
    cases h
    rfl

end Keeps

/-- Settles O38: each due column writes the cells of its own visible tail only. -/
theorem tickPaintsOnlyItsCells : Obligations.TickPaintsOnlyItsCells := by
  intro s hs hr hw hh
  obtain ⟨t, hrun, hexec, -, -⟩ := exec_tick_of_repliesOk hs hr
  refine ⟨_, hexec, fun a ha => ?_⟩
  have houtside : ∀ c : Fin 21, c.val < s.ncols.toNat → columnDue (s.col c) → OutsideTail s.cfg c (s.col c) a := by
    intro c hc hd i dx dy hi hv hdx hdy
    simp only [onGrid, rowVisible, Bool.and_eq_true, decide_eq_true_eq] at hv
    exact ha c i dx dy hc hd hi hv.1 hv.2 hdx hdy
  refine (forEach_carries (P := fun before u => TickedUpTo s before u ∧
      Gram.read u.panel.gram a = Gram.read s.panel.gram a) (fun before c after u v hl hu hv => ?_)
    ⟨tickedUpTo_start s, rfl⟩ (List.append_nil _).symm hrun).2
  obtain ⟨htick, hread⟩ := hu
  have hcol := htick.waiting c (not_mem_before hl)
  refine ⟨htick.round hl hv, (tickColumn_keeps (htick.cfg ▸ ⟨hw, hh⟩) ?_ hv).trans hread⟩
  rw [hcol, htick.cfg]
  exact houtside c (mem_firstCols.1 (hl ▸ by simp))

end Sys2Proof.Machine
end

section
/-! The schedule of a column (R86, R87): the tick of each advance, and of the respawn. -/

namespace Sys2Proof.Machine

/-! ## Ticks one after another -/

theorem ticks_succ {m : Nat} {s u v : State} (hu : ticks m s = .next u) (hv : exec .tick u = .next v) :
    ticks (m + 1) s = .next v := by
  induction m generalizing s with
  | zero =>
    cases hu
    simp only [ticks, hv]
  | succ m ih =>
    obtain ⟨t, ht, -⟩ := exec_form .tick s
    have htail : ∀ n, ticks (n + 1) s = ticks n t := fun n => by simp only [ticks, ht]
    rw [htail] at hu ⊢
    exact ih hu

/-- The most transfers a tick of a legal state makes: 21 columns of 14 cells (R85). -/
abbrev tickCost : Nat := 21 * 14 * 288

theorem tickCells_le {s : State} (hs : columnsLegal s) : tickCells s ≤ 21 * 14 := by
  have hcolumn : ∀ n ∈ (firstCols s.ncols).map (fun c => columnTickCells (s.col c)), n ≤ 14 := by
    intro n hn
    obtain ⟨c, hc, rfl⟩ := List.mem_map.1 hn
    obtain ⟨-, htail, -⟩ := hs.2 c (mem_firstCols.1 hc)
    have hcells : columnCells (s.col c) ≤ (s.col c).tail.toNat + 1 :=
      (List.length_filter_le _ _).trans List.length_range.le
    unfold columnTickCells
    split <;> omega
  have hlength : (firstCols s.ncols).length ≤ 21 := (List.length_filter_le _ _).trans List.length_finRange.le
  have hsum := List.sum_le_card_nsmul _ 14 hcolumn
  rw [List.length_map, smul_eq_mul] at hsum
  exact hsum.trans (Nat.mul_le_mul_right 14 hlength)

/-- What the ticks of a schedule keep. -/
structure TickReady (s u : State) (n : Nat) : Prop where
  state   : u.state = .ready
  legal   : columnsLegal u
  ncols   : u.ncols = s.ncols
  replies : u.repliesOk (n * tickCost)

theorem TickReady.tick {s u : State} {n : Nat} (h : TickReady s u (n + 1)) :
    ∃ v, exec .tick u = .next v ∧ TickReady s v n ∧ ∀ c : Fin 21, c.val < s.ncols.toNat → ColumnTicked u v c := by
  have hcost : 288 * tickCells u ≤ tickCost := by
    have hcells := tickCells_le h.legal
    rw [tickCost]
    omega
  have hreplies : u.repliesOk (tickCost + n * tickCost) := by
    have hr := h.replies
    rwa [Nat.succ_mul, Nat.add_comm] at hr
  obtain ⟨v, hrun, hexec, htick, hwithin⟩ :=
    exec_tick_of_repliesOk h.state (State.repliesOk_mono (hcost.trans (Nat.le_add_right _ _)) hreplies)
  have hquiet := quiet_animation.doTick { u with result := .ok }
  have hkept := blockKept_animation.doTick { u with result := .ok }
  rw [hrun] at hquiet hkept
  have hleft : v.repliesOk (n * tickCost) :=
    repliesOk_after hwithin.env hwithin.le (hwithin.cap.trans (Nat.add_le_add_left hcost _)) hreplies
  refine ⟨_, hexec, ⟨hquiet.state.trans h.state, exec_columnsLegal h.legal hexec, hkept.ncols.trans h.ncols,
    (State.repliesOk_congr rfl rfl _).2 hleft⟩, fun c hc => ?_⟩
  exact (htick.ticked c (mem_firstCols.2 (h.ncols ▸ hc))).congr rfl

/-! ## One column's schedule -/

/-- The tick on which a column respawns (R86). -/
def respawnTick (k : Column) : Nat := max k.fc.toNat 1 + (20 + k.tail.toNat - k.head.toNat) * k.speed.toNat

/-- `m` ticks on, column `k0` has become `k` by `j` advances: the next one is due when the counter has run down. -/
structure OnSchedule (k0 k : Column) (j m : Nat) : Prop where
  head  : k.head.toNat = k0.head.toNat + j
  tail  : k.tail = k0.tail
  speed : k.speed = k0.speed
  due   : m + max k.fc.toNat 1 = max k0.fc.toNat 1 + j * k0.speed.toNat
  wait  : j = 0 ∨ k.fc.toNat ≤ k0.speed.toNat

theorem OnSchedule.start (k : Column) : OnSchedule k k 0 0 := ⟨rfl, rfl, rfl, by omega, .inl rfl⟩

theorem half_toInt_of_nonneg {a : Half} (h : 0 ≤ a.toInt) : a.toInt = a.toNat := by
  rw [BitVec.toInt_eq_toNat_cond] at h ⊢
  split <;> omega

/-- The legal values, as numbers (R85). -/
structure LegalNat (k : Column) : Prop where
  fc     : k.fc.toNat ≤ 9
  speed0 : 1 ≤ k.speed.toNat
  speed  : k.speed.toNat ≤ 3
  tail   : k.tail.toNat ≤ 13
  head   : k.head.toNat ≤ 20 + k.tail.toNat

theorem columnLegal.toNat {k : Column} (h : columnLegal k) : LegalNat k := by
  obtain ⟨-, htail, hspeed0, hspeed, hfc0, hfc, hhead0, hhead⟩ := h
  have hf := half_toInt_of_nonneg hfc0
  have hh := half_toInt_of_nonneg hhead0
  exact ⟨by omega, hspeed0, hspeed, htail, by omega⟩

/-- A column is due when its counter is at most 1. -/
theorem columnLegal.due_iff {k : Column} (h : columnLegal k) : columnDue k ↔ max k.fc.toNat 1 = 1 := by
  have hdown := h.countDown_toInt
  obtain ⟨-, -, -, -, hfc0, -⟩ := h
  have hf := half_toInt_of_nonneg hfc0
  rw [columnDue, hdown]
  omega

/-- A column respawns when its next advance is the one after row `20 + tail`. -/
theorem columnLegal.respawns_iff {k : Column} (h : columnLegal k) :
    columnRespawns k ↔ k.head.toNat = 20 + k.tail.toNat := by
  have hend := h.tailEnd_toInt
  have hnat := h.toNat.head
  obtain ⟨-, -, -, -, -, -, hhead0, -⟩ := h
  have hh := half_toInt_of_nonneg hhead0
  rw [columnRespawns, hend]
  omega

/-- The number of advances made by tick `m`. -/
theorem OnSchedule.advances {k0 k : Column} {j m : Nat} (h : OnSchedule k0 k j m) (hspeed : 1 ≤ k0.speed.toNat) :
    j = if m < max k0.fc.toNat 1 then 0 else 1 + (m - max k0.fc.toNat 1) / k0.speed.toNat := by
  obtain ⟨-, -, -, hdue, hwait⟩ := h
  cases j with
  | zero => rw [if_pos (by omega)]
  | succ j =>
    have hfc : k.fc.toNat ≤ k0.speed.toNat := hwait.resolve_left (Nat.succ_ne_zero j)
    rw [Nat.succ_mul] at hdue
    have hquot : (m - max k0.fc.toNat 1) / k0.speed.toNat = j :=
      Nat.div_eq_of_lt_le (by omega) (by rw [Nat.succ_mul]; omega)
    rw [if_neg (by omega), hquot, Nat.add_comm]

section Tick

variable {k0 : Column} {s t : State} {c : Fin 21} {j m : Nat}

/-- Before the tick of the respawn a tick keeps the column on its schedule. -/
theorem OnSchedule.tick (h : OnSchedule k0 (s.col c) j m) (hlegal : columnLegal (s.col c)) (ht : ColumnTicked s t c)
    (hm : m + 1 < respawnTick k0) : ∃ j, OnSchedule k0 (t.col c) j (m + 1) := by
  have hnat := hlegal.toNat
  have hheadLe := hnat.head
  have hspeed1 := hnat.speed0
  have hspeed3 := hnat.speed
  have htail13 := hnat.tail
  obtain ⟨hhead, htail, hspeed, hdue, hwait⟩ := h
  by_cases hd : columnDue (s.col c)
  · have hone := hlegal.due_iff.1 hd
    have hj : j < 20 + k0.tail.toNat - k0.head.toNat := by
      have hlt : j * k0.speed.toNat < (20 + k0.tail.toNat - k0.head.toNat) * k0.speed.toNat := by
        rw [respawnTick] at hm
        omega
      exact Nat.lt_of_mul_lt_mul_right hlt
    have hstays : ¬ columnRespawns (s.col c) := by
      rw [hlegal.respawns_iff, htail]
      omega
    have hzext : (zext16 (s.col c).speed).toNat = (s.col c).speed.toNat :=
      (BitVec.toNat_setWidth ..).trans (Nat.mod_eq_of_lt (by omega))
    refine ⟨j + 1, ?_⟩
    rw [ht.moves hd hstays]
    refine ⟨?_, htail, hspeed, ?_, .inr (hspeed ▸ hzext.le)⟩
    · rw [BitVec.toNat_add, hhead]
      exact Nat.mod_eq_of_lt (by simp only [BitVec.reduceToNat]; omega)
    · rw [hzext, Nat.succ_mul, ← hspeed]
      rw [← hspeed] at hdue
      omega
  · have hnotOne := mt hlegal.due_iff.2 hd
    have hdown : ((s.col c).fc - 1).toNat = (s.col c).fc.toNat - 1 :=
      BitVec.toNat_sub_of_le (BitVec.le_def.2 (by simp only [BitVec.reduceToNat]; omega))
    refine ⟨j, ?_⟩
    rw [ht.waits hd]
    exact ⟨hhead, htail, hspeed, by rw [hdown]; omega, hwait.imp_right fun hle => by rw [hdown]; omega⟩

/-- On the tick of the respawn the column is due and its tail has left the grid. -/
theorem OnSchedule.respawns (h : OnSchedule k0 (s.col c) j m) (hlegal : columnLegal (s.col c))
    (hm : m + 1 = respawnTick k0) : columnDue (s.col c) ∧ columnRespawns (s.col c) := by
  have hheadLe := hlegal.toNat.head
  have hspeed1 := hlegal.toNat.speed0
  obtain ⟨hhead, htail, hspeed, hdue, -⟩ := h
  rw [htail] at hheadLe
  rw [hspeed] at hspeed1
  rw [respawnTick] at hm
  have hj : j = 20 + k0.tail.toNat - k0.head.toNat := by
    have hle : (20 + k0.tail.toNat - k0.head.toNat) * k0.speed.toNat ≤ j * k0.speed.toNat := by omega
    have := Nat.le_of_mul_le_mul_right hle hspeed1
    omega
  rw [← hj] at hm
  rw [hlegal.due_iff, hlegal.respawns_iff, htail]
  omega

end Tick

/-- The respawn comes at most on the 108th tick, and on the 102nd where the counter is an old speed (R87). -/
theorem LegalNat.respawnTick_le {k : Column} (h : LegalNat k) :
    respawnTick k ≤ 108 ∧ (k.fc.toNat ≤ 3 → respawnTick k ≤ 102) := by
  obtain ⟨hfc, -, hspeed, htail, -⟩ := h
  have hmul := Nat.mul_le_mul (show 20 + k.tail.toNat - k.head.toNat ≤ 33 by omega) hspeed
  rw [respawnTick]
  omega

/-- Up to the tick of its respawn a column keeps to its schedule. -/
theorem ticks_onSchedule {s : State} {c : Fin 21} (hs : s.state = .ready) (hlegal : columnsLegal s)
    (hc : c.val < s.ncols.toNat) (hr : s.repliesOk (respawnTick (s.col c) * tickCost)) {m : Nat}
    (hm : m < respawnTick (s.col c)) :
    ∃ u j, ticks m s = .next u ∧ TickReady s u (respawnTick (s.col c) - m) ∧ OnSchedule (s.col c) (u.col c) j m := by
  induction m with
  | zero => exact ⟨s, 0, rfl, ⟨hs, hlegal, rfl, hr⟩, .start _⟩
  | succ m ih =>
    obtain ⟨u, j, hu, hready, hsched⟩ := ih (by omega)
    rw [show respawnTick (s.col c) - m = respawnTick (s.col c) - (m + 1) + 1 by omega] at hready
    obtain ⟨v, hv, hready', htick⟩ := hready.tick
    have hlegalCol := hready.legal.2 c (hready.ncols ▸ hc)
    obtain ⟨j', hsched'⟩ := hsched.tick hlegalCol (htick c hc) hm
    exact ⟨v, j', ticks_succ hu hv, hready', hsched'⟩

/-- Settles O41: a column keeps to its schedule until the tick of its respawn, and that tick is one on which it
respawns. -/
theorem columnRespawnsOnItsTick : Obligations.ColumnRespawnsOnItsTick := by
  rintro s c _ _ _ _ N hs hlegal hc rfl rfl rfl rfl hN hr
  obtain rfl : N = respawnTick (s.col c) := hN
  have hnat := (hlegal.2 c hc).toNat
  obtain ⟨hle, hleOld⟩ := hnat.respawnTick_le
  refine ⟨hle, hleOld, fun m hm => ?_, ?_⟩
  · obtain ⟨u, j, hu, -, hsched⟩ := ticks_onSchedule hs hlegal hc hr hm
    exact ⟨u, hu, hsched.advances hnat.speed0 ▸ hsched.head, by rw [hsched.tail], by rw [hsched.speed]⟩
  · have hpos : 0 < respawnTick (s.col c) := Nat.lt_of_lt_of_le (by omega) (Nat.le_add_right _ _)
    obtain ⟨m, hm⟩ := Nat.exists_eq_add_one_of_ne_zero hpos.ne'
    obtain ⟨u, j, hu, hready, hsched⟩ := ticks_onSchedule hs hlegal hc hr (m := m) (by omega)
    rw [show respawnTick (s.col c) - m = 0 + 1 by omega] at hready
    obtain ⟨v, hv, -, htick⟩ := hready.tick
    obtain ⟨hdue, hrespawns⟩ := hsched.respawns (hready.legal.2 c (hready.ncols ▸ hc)) hm.symm
    obtain ⟨hnew, hrange⟩ := (htick c hc).respawns hdue hrespawns
    have hzext : (zext16 (u.col c).speed).toNat = (u.col c).speed.toNat :=
      (BitVec.toNat_setWidth ..).trans (Nat.mod_eq_of_lt (by omega))
    exact ⟨v, hm ▸ ticks_succ hu hv, by rw [hnew], by rw [hnew, hzext, hsched.speed], hrange⟩

end Sys2Proof.Machine
end
